-- ==== Sys2Proof/Word.lean ====
section
/-! DEFINITION. The word types of FCODEC: a byte of either buffer, the 32-bit operand and result word, and the
48-bit command word (spec 00_scope.md R11, 30_encoding.md R45, R46). Bit 0 is the least significant bit. -/

namespace Sys2Proof

/-- One byte of `SET` or `TLM`, and an 8-bit field of the command word (R11, R14, R15). -/
abbrev Byte := BitVec 8

/-- The operand `WDATA` and the result `RDATA` (R45, R46). -/
abbrev Word := BitVec 32

/-- The command word `{OP, IDX, WDATA}` (R45). -/
abbrev CommandWord := BitVec 48

end Sys2Proof
end

