-- ==== Sys2Proof/Config.lean ====
section
/-! DEFINITION. What an implementation of the spec fixes (spec 00_scope.md R9, R10): the two named parameters
`EXP_POLICY` and `F3_ORDER`, their values for FCODEC-1, and the sizes of the two buffers. -/

namespace Sys2Proof

/-- `EXP_POLICY` (R10, R102, conflict C1): the exponent the float encoders keep when several reproduce the value. -/
inductive ExpPolicy where
  | smallestExact
  | largestFit
  deriving DecidableEq, Repr

/-- `F3_ORDER` (R10, R100): the order of the three bytes of a Float3 code. -/
inductive F3Order where
  | mantHiMantLoExp
  | expMantHiMantLo
  deriving DecidableEq, Repr

/-- The named parameters a model takes (R10). The shared float operations take one; they are no state (R6). -/
structure Params where
  expPolicy : ExpPolicy
  f3Order : F3Order
  deriving DecidableEq, Repr

/-- FCODEC-1: both parameters at their defaults (R10). DESIGN CHOICE, logs 6 and 7: unsafe for an embodiment that takes
an alternative. -/
def Config.params : Params := ⟨.smallestExact, .mantHiMantLoExp⟩

/-- The size of `SET` in bytes (R9, R14). -/
abbrev Config.setSize : Nat := 32

/-- `TLM_CAP`, the size of `TLM` in bytes (R10, R15, R89). -/
abbrev Config.tlmSize : Nat := 17

end Sys2Proof
end

