-- ==== Sys2Proof/Syntax.lean ====
section
/-! DEFINITION. The commands of FCODEC as syntax: one constructor of `Instr` per row of spec/opcode_table.json
(spec 30_encoding.md R48), the four formats (R47), and the syntax of the assembler notation and its
pseudo-instructions (R53, R54). A constructor holds exactly the fields its format reads. -/

namespace Sys2Proof

/-- The operand formats (R47): which of `IDX` and `WDATA` a command reads. -/
inductive Format where
  | n
  | i
  | w
  | iw
  deriving DecidableEq, Repr

/-- The telemetry fields in canonical order (R16, R49). -/
inductive Field where
  | bat
  | cur
  | temp
  | rpm
  | gps
  | alm
  deriving DecidableEq, Repr

/-- The gps axes (R49). -/
inductive Axis where
  | x
  | y
  | z
  deriving DecidableEq, Repr

/-- The 47 commands (R48), in the order of the opcode table. -/
inductive Instr where
  | nop
  | sgetDyn
  | sgetAck
  | sgetAckp
  | sgetRate
  | sgetChan
  | sgetPsz
  | sgetFreq
  | sgetRdly
  | sgetNch
  | sgetChsz
  | sgetTmsk
  | srdb (idx : Byte)
  | ssetDyn (wdata : Word)
  | ssetAck (wdata : Word)
  | ssetAckp (wdata : Word)
  | ssetRate (wdata : Word)
  | ssetChan (wdata : Word)
  | ssetPsz (wdata : Word)
  | ssetFreq (wdata : Word)
  | ssetRdly (wdata : Word)
  | ssetNch (wdata : Word)
  | ssetChsz (wdata : Word)
  | ssetTmsk (wdata : Word)
  | swrb (idx : Byte) (wdata : Word)
  | tgetBat
  | tgetCur
  | tgetTemp
  | tgetRpm
  | tgetGps (idx : Byte)
  | tgetAlm (idx : Byte)
  | trdb (idx : Byte)
  | tsetBat (wdata : Word)
  | tsetCur (wdata : Word)
  | tsetTemp (wdata : Word)
  | tsetRpm (wdata : Word)
  | tsetGps (idx : Byte) (wdata : Word)
  | tsetAlm (idx : Byte) (wdata : Word)
  | tclr
  | twrb (idx : Byte) (wdata : Word)
  | ten (idx : Byte)
  | toff (idx : Byte)
  | tsize
  | f3enc (wdata : Word)
  | f3dec (wdata : Word)
  | f2enc (wdata : Word)
  | f2dec (wdata : Word)
  deriving DecidableEq, Repr

/-- An `idx` operand of an assembler line (R53): a number, an axis name or a field name. -/
inductive IdxOperand where
  | number (n : Nat)
  | axis (a : Axis)
  | field (f : Field)
  deriving DecidableEq, Repr

/-- A `value` operand of an assembler line (R53): an integer, or a decimal literal with a point or an exponent, which is
the number `digits * 10 ^ exp10` with its sign. -/
inductive ValueOperand where
  | integer (z : Int)
  | real (neg : Bool) (digits : Nat) (exp10 : Int)
  deriving DecidableEq, Repr

/-- One line of the assembler notation (R53), already split into its parts. -/
structure AsmLine where
  mnemonic : String
  idx : Option IdxOperand
  value : Option ValueOperand
  deriving DecidableEq, Repr

/-- The pseudo-instructions (R54). -/
inductive Pseudo where
  | sload (bytes : List Byte)
  | sdump
  | tload (bytes : List Byte)
  | tdump (n : Nat)
  | tsetGps3 (vx vy vz : Word)
  | tsetAlms (a0 a1 a2 : Word)
  deriving DecidableEq, Repr

end Sys2Proof
end

