-- ==== Sys2Proof/Machine/State.lean ====
section
/-! DEFINITION. The state of FCODEC (spec 10_state.md R14 to R16, R24 to R26; 30_encoding.md R46, R55), the reasons a step
can stop, and the state after reset (70_reset_and_hazards.md R155). -/

namespace Sys2Proof.Machine

/-- The two byte spaces (R24). -/
inductive Space where
  | set
  | tlm
  deriving DecidableEq, Repr

/-- The contents of one byte space: (index, byte) cells, indices strictly rising, no cell equal to what an unlisted index
reads as, which is the reset value 0x00 (R26, R155; log 4). -/
abbrev Memory := List Host.Cell

/-- One entry of the layout table: enabled, byte offset, bit offset, bit width (R16). -/
structure LayEntry where
  en : Bool
  off : Nat
  bit : Nat
  width : Nat
  deriving DecidableEq, Repr

/-- The entry of a disabled field: "A disabled field's entry is all zero" (R86). -/
def LayEntry.disabled : LayEntry := ⟨false, 0, 0, 0⟩

/-- `LAY`, the layout table (R16). -/
structure Lay where
  bat : LayEntry
  cur : LayEntry
  temp : LayEntry
  rpm : LayEntry
  gps : LayEntry
  alm : LayEntry
  size : Nat
  deriving DecidableEq, Repr

/-- The table with nothing enabled, which is `Layout(0x00)` (R16, R26). -/
def Lay.empty : Lay :=
  ⟨.disabled, .disabled, .disabled, .disabled, .disabled, .disabled, 0⟩

/-- The five status codes of R140; the values 5..15 are never produced (93_implementation_defined.md U7). -/
inductive Status where
  | ok
  | errOpcode
  | errIndex
  | errRange
  | errNan
  deriving DecidableEq, Repr

/-- The response `{STATUS, RDATA}` (R46). -/
structure Response where
  status : Status
  rdata : Word
  deriving DecidableEq, Repr

/-- What the host drives on the port in one step: `rst`, `cmd_valid`, `cmd` (R55). -/
structure PortInput where
  rst : Bool
  cmdValid : Bool
  cmd : CommandWord
  deriving DecidableEq, Repr

/-- The state of one FCODEC and of its port. -/
structure State where
  /-- `SET[0..31]` (R14). -/
  set : Memory
  /-- `TLM[0..16]` (R15). -/
  tlm : Memory
  /-- `LAY` (R16; log 3). -/
  lay : Lay
  /-- `rsp_valid` and `rsp` after the step just taken: none is `rsp_valid = 0` (R55, R155; log 2). -/
  rsp : Option Response
  /-- THE MODEL'S OWN FIELD: what the host will drive, oldest first (R55, R150; log 1). -/
  inputs : List PortInput
  deriving DecidableEq, Repr

/-- Why the machine stops with a fault. The faults of the spec are responses, not stops (R143, R146). -/
inductive Fault where
  /-- An access to index `a` of a byte space that has no such byte (R24, R36). Raised by the telemetry accesses of
  Machine/Ops.lean when `LAY` points outside `TLM`, which no state with `LAY = Layout(SET[6])` has (R16, R27; log 5).
  Safe: it allows no behaviour. -/
  | noSuchByte (sp : Space) (a : Nat)
  deriving DecidableEq, Repr

/-- Why the model refuses. -/
inductive Refusal where
  /-- An instruction without a meaning, raised by `exec` alone; no arm does. Safe. -/
  | notModelled (mnemonic : String)
  deriving DecidableEq, Repr

/-- The outcome of one step of this machine. -/
abbrev Result := Host.Outcome State Fault Refusal

/-- Reset (R155): both buffers all zero, `LAY = Layout(0x00)`, `rsp_valid = 0`. The host's inputs come from outside the
machine; none are waiting (DESIGN CHOICE, log 1: unsafe where a claim rests on it). -/
def State.reset : State := ⟨[], [], .empty, none, []⟩

end Sys2Proof.Machine
end

