-- ==== Sys2Proof/Machine/Layout.lean ====
section
/-! DEFINITION. The layout function: from the telemetry bitmask `SET[6]` to the table `LAY` (spec 41_layout.md R86, R87;
the mask's bits are 10_state.md R22). It follows the walk of R86, the branch that would pack alarms into free bits
included (conflict C3: never taken). -/

namespace Sys2Proof.Machine

/-- `LAY.f` (R12, R16). -/
def Lay.entry (l : Lay) : Field → LayEntry
  | .bat => l.bat
  | .cur => l.cur
  | .temp => l.temp
  | .rpm => l.rpm
  | .gps => l.gps
  | .alm => l.alm

/-- `LAY.f <- e` (R86). -/
def Lay.setEntry (l : Lay) (f : Field) (e : LayEntry) : Lay :=
  match f with
  | .bat => { l with bat := e }
  | .cur => { l with cur := e }
  | .temp => { l with temp := e }
  | .rpm => { l with rpm := e }
  | .gps => { l with gps := e }
  | .alm => { l with alm := e }

/-- The local variables of the walk of R86: the table so far, `off` and `free`. -/
structure LayoutWalk where
  lay : Lay
  off : Nat
  free : Nat
  deriving DecidableEq, Repr

/-- The whole-byte fields in canonical order, each with its mask bit and its size in bytes (R86, R87). -/
def canonicalOrder : List (Field × Nat × Nat) :=
  [(.bat, 0, 2), (.cur, 1, 2), (.temp, 2, 1), (.rpm, 3, 2), (.gps, 4, 9)]

/-- One turn of the loop of R86. -/
def walkField (mask : Byte) (k : LayoutWalk) (row : Field × Nat × Nat) : LayoutWalk :=
  if mask.getLsbD row.2.1 then
    { lay := k.lay.setEntry row.1 ⟨true, k.off, 0, 8 * row.2.2⟩, off := k.off + row.2.2, free := 0 }
  else
    { k with lay := k.lay.setEntry row.1 .disabled }

/-- The alarm count `mask[6:5]`, an unsigned number 0..3 (R22). -/
def alarmCount (mask : Byte) : Nat := (mask.extractLsb' 5 2).toNat

/-- The alarm step of R86 for `n` alarms. -/
def placeAlarms (n : Nat) (k : LayoutWalk) : LayoutWalk :=
  if n = 0 then
    { k with lay := k.lay.setEntry .alm .disabled }
  else if n ≤ k.free then
    { k with lay := k.lay.setEntry .alm ⟨true, k.off - 1, 8 - k.free, n⟩, free := k.free - n }
  else
    { lay := k.lay.setEntry .alm ⟨true, k.off, 0, n⟩, off := k.off + 1, free := 8 - n }

/-- `Layout(mask)` (R86). `mask[7]` is not read. -/
def layout (mask : Byte) : Lay :=
  let k := placeAlarms (alarmCount mask) (canonicalOrder.foldl (walkField mask) ⟨.empty, 0, 0⟩)
  { k.lay with size := k.off }

end Sys2Proof.Machine
end

