-- ==== Sys2Proof/Machine/Ops.lean ====
section
/-! DEFINITION. The named operations over the two byte spaces and the response: reading and writing a byte, several
bytes, `SET` with the layout that follows it (spec 00_scope.md R12, 10_state.md R16, 20_memory.md R30 to R36), answering
a command, and raising a fault, which is the whole of taking an exception on this hardware (60_exceptions.md R143, R146).
There is no return from an exception (R147). -/

namespace Sys2Proof.Machine

/-- How many bytes a space has (R24). -/
def Space.size : Space → Nat
  | .set => Config.setSize
  | .tlm => Config.tlmSize

/-- Byte `a` of a space's contents. An unlisted index reads as 0x00, the reset contents (R26). -/
def Memory.read (m : Memory) (a : Nat) : Byte :=
  match m with
  | [] => 0#8
  | c :: rest => if c.1 = a then c.2 else Memory.read rest a

/-- The contents with no cell for index `a`. -/
def Memory.drop (m : Memory) (a : Nat) : Memory := m.filter (fun c => c.1 != a)

/-- The contents with a cell put in its place by rising index. -/
def Memory.insert (m : Memory) (a : Nat) (v : Byte) : Memory :=
  match m with
  | [] => [(a, v)]
  | c :: rest => if c.1 < a then c :: Memory.insert rest a v else (a, v) :: c :: rest

/-- `S[a] <- v` (R12): "all other bytes keep their value". The canonical form is kept: writing 0x00 unlists the index. -/
def Memory.write (m : Memory) (a : Nat) (v : Byte) : Memory :=
  if v = 0#8 then Memory.drop m a else Memory.insert (Memory.drop m a) a v

/-- Whether every cell's index is at least `lo` and below `n`, the indices rise strictly, and no cell holds 0x00. -/
def Memory.wfFrom (n lo : Nat) (m : Memory) : Bool :=
  match m with
  | [] => true
  | c :: rest => decide (lo ≤ c.1) && decide (c.1 < n) && decide (c.2 ≠ 0#8) && Memory.wfFrom n (c.1 + 1) rest

/-- The canonical form of the contents of a space of `n` bytes (log 4). -/
def Memory.wf (n : Nat) (m : Memory) : Bool := Memory.wfFrom n 0 m

/-- The contents of a space. -/
def State.mem (s : State) : Space → Memory
  | .set => s.set
  | .tlm => s.tlm

/-- `SET[i]`, `TLM[i]` (R12): the one read of a byte. -/
def State.byte (s : State) (sp : Space) (a : Nat) : Byte := (s.mem sp).read a

/-- `SET[a] <- v`, and with it the layout: `LAY` is recomputed "in the same step as every write to `SET[6]`" (R16, R83,
R85). `TLM` is not touched (R162). -/
def State.writeSet (s : State) (a : Nat) (v : Byte) : State :=
  { s with set := s.set.write a v, lay := if a = 6 then layout v else s.lay }

/-- The contents after `MemWrite(TLM, a, n, bs)`: the bytes in order, lowest index first (R12, R30). -/
def Memory.writeList (m : Memory) (a : Nat) (bs : List Byte) : Memory :=
  match bs with
  | [] => m
  | b :: rest => Memory.writeList (m.write a b) (a + 1) rest

/-- `MemWrite(TLM, a, n, bs)` (R12). -/
def State.writeTlm (s : State) (a : Nat) (bs : List Byte) : State :=
  { s with tlm := s.tlm.writeList a bs }

/-- `rsp <- r` (R12): the response of the command (R55). -/
def State.respond (s : State) (r : Response) : State := { s with rsp := some r }

/-- `rsp <- (OK, d)`: the command ends, the state is `s` (R12, R140). -/
def State.answer (s : State) (d : Word) : Result := .next (s.respond ⟨.ok, d⟩)

/-- `raise Fault(code)`: "ends the command with `rsp <- (code, 0)` and no state change" (R12, R143, R146). The one
operation that takes an exception. -/
def State.raise (s : State) (code : Status) : Result := .next (s.respond ⟨code, 0#32⟩)

/-- Go on with `k` when the `n` bytes from `a` lie in the space; otherwise the bytes do not exist (R24; log 5). -/
def Space.within (sp : Space) (a n : Nat) (k : Result) : Result :=
  if a + n ≤ sp.size then k else .fault (.noSuchByte sp a)

/-- The common shape of the getters of R120, steps 2 and 4: a disabled channel answers 0; otherwise the `n` bytes at `a`
are there and the answer is `value`. -/
def State.readChannel (s : State) (en : Bool) (a n : Nat) (value : Word) : Result :=
  if en then Space.tlm.within a n (s.answer value) else s.answer 0#32

/-- The common shape of the setters of R120, steps 2 to 4: a disabled channel answers 0 with its operand not examined; then
the operand's own fault; then the bytes are written at `a`. -/
def State.writeChannel (s : State) (en : Bool) (a : Nat) (operand : Except Status (List Byte)) : Result :=
  if en then
    match operand with
    | .error code => s.raise code
    | .ok bs => Space.tlm.within a bs.length ((s.writeTlm a bs).answer 0#32)
  else s.answer 0#32

end Sys2Proof.Machine
end

