-- ==== Sys2Proof/Machine/Operands.lean ====
section
/-! DEFINITION. How a command reads its operand fields and gives its result (spec 30_encoding.md R49): raw bytes, integers,
flags, indices, field identifiers, sign and zero extension, and the bit fields of `SET` (10_state.md R20, 20_memory.md
R34). -/

namespace Sys2Proof.Machine

/-- `zext_32` of a byte (R12). -/
def zextByte (b : Byte) : Word := b.setWidth 32

/-- `sext_32(b : 8)` (R12, R126). -/
def sextByte (b : Byte) : Word := b.signExtend 32

/-- `sext_32({hi, lo} : 16)` (R12, R128). -/
def sextPair (hi lo : Byte) : Word := (hi ++ lo).signExtend 32

/-- A truth value as response data (R91, R132). -/
def boolWord (b : Bool) : Word := if b then 1#32 else 0#32

/-- A raw byte or a signed 8-bit operand: `WDATA[7:0]` (R49). -/
def lowByte (w : Word) : Byte := w.extractLsb' 0 8

/-- The bytes of a signed 16-bit operand, most significant first: `[WDATA[15:8], WDATA[7:0]]` (R49, R129). -/
def lowPair (w : Word) : List Byte := [w.extractLsb' 8 8, w.extractLsb' 0 8]

/-- A flag operand: `WDATA[0]` (R49). -/
def flagBit (w : Word) : Bool := w.getLsbD 0

/-- The field identifiers of `TEN` and `TOFF`; 6..255 name no field (R49). -/
def fieldOf? (idx : Byte) : Option Field :=
  match idx.toNat with
  | 0 => some .bat
  | 1 => some .cur
  | 2 => some .temp
  | 3 => some .rpm
  | 4 => some .gps
  | 5 => some .alm
  | _ => none

/-- The fields of the SettingsRecord (R20). -/
inductive Setting where
  | dyn
  | ack
  | ackp
  | rate
  | chan
  | psz
  | freq
  | rdly
  | nch
  | chsz
  | tmsk
  deriving DecidableEq, Repr

/-- Where a settings field lies: its byte, its lowest bit and its width. -/
structure Slot where
  byte : Nat
  lo : Nat
  width : Nat
  deriving DecidableEq, Repr

/-- The `slice` column of the field table (R20). -/
def Setting.slot : Setting → Slot
  | .dyn => ⟨0, 0, 1⟩
  | .ack => ⟨0, 1, 1⟩
  | .ackp => ⟨0, 2, 1⟩
  | .rate => ⟨0, 3, 2⟩
  | .chan => ⟨1, 0, 8⟩
  | .psz => ⟨2, 0, 8⟩
  | .freq => ⟨3, 0, 8⟩
  | .rdly => ⟨4, 0, 4⟩
  | .nch => ⟨5, 0, 5⟩
  | .chsz => ⟨5, 5, 3⟩
  | .tmsk => ⟨6, 0, 8⟩

/-- The bits of a byte that belong to a slot. -/
def Slot.mask (p : Slot) : Byte := BitVec.ofNat 8 ((2 ^ p.width - 1) * 2 ^ p.lo)

/-- A slot's value in a byte, zero-extended (R60). -/
def Slot.extract (p : Slot) (b : Byte) : Word := (b.extractLsb' p.lo p.width).setWidth 32

/-- A byte with a slot's bits replaced by the low bits of `v`: `(old AND NOT fieldmask) OR (value-bits AND fieldmask)`
(R34), the low bits of the operand win (R60, R61). -/
def Slot.insert (p : Slot) (old : Byte) (v : Word) : Byte :=
  (old &&& ~~~p.mask) ||| ((v.setWidth 8 <<< p.lo) &&& p.mask)

/-- A settings field as stored, zero-extended (R60). -/
def State.getSetting (s : State) (f : Setting) : Word := f.slot.extract (s.byte .set f.slot.byte)

/-- Replace exactly the field's bits in its byte by the low bits of `v` (R60, R61). -/
def State.putSetting (s : State) (f : Setting) (v : Word) : State :=
  s.writeSet f.slot.byte (f.slot.insert (s.byte .set f.slot.byte) v)

/-- `b AND NOT (1 << p) OR (v << p)` (R133): one bit of the alarm byte. -/
def putBit (b : Byte) (p : Nat) (v : Bool) : Byte :=
  (b &&& ~~~(1#8 <<< p)) ||| ((if v then 1#8 else 0#8) <<< p)

end Sys2Proof.Machine
end

