-- ==== Sys2Proof/Machine/Float.lean ====
section
/-! DEFINITION. The two compact float encodings, on exact numbers, and the binary32 words of the port (spec 42_float.md
R100 to R113, 00_scope.md R13). Every number that occurs is a dyadic rational: an integer over a power of two. -/

namespace Sys2Proof.Machine

/-- The exact number `num / 2 ^ den`: "A model should define the codecs over rationals (or dyadic rationals) first"
(42_float.md, before section 1; log 16). -/
structure Dyad where
  num : Int
  den : Nat
  deriving DecidableEq, Repr

/-- The rational a dyad stands for. -/
def Dyad.toRat (x : Dyad) : ℚ := (x.num : ℚ) / 2 ^ x.den

/-- `x * 2^e`, exact (R102). -/
def Dyad.scale (x : Dyad) (e : Nat) : Dyad := ⟨x.num * 2 ^ e, x.den⟩

/-- `m = y` as numbers (R102). -/
def Dyad.isInt (y : Dyad) (m : Int) : Bool := decide (y.num = m * 2 ^ y.den)

/-- `floor(n / 2^d + 1/2)` of a magnitude. -/
def halfUp (n d : Nat) : Nat := (2 * n + 2 ^ d) / 2 ^ (d + 1)

/-- `roundHAZ(q)`: the nearest integer, a tie goes away from zero (R13). -/
def roundHAZ (q : Dyad) : Int :=
  if 0 ≤ q.num then (halfUp q.num.natAbs q.den : Int) else -(halfUp q.num.natAbs q.den : Int)

/-- A float code `(m, e)`, of either format (R100, R101). -/
structure FloatCode where
  m : Int
  e : Nat
  deriving DecidableEq, Repr

/-- The loop of `Search(x, E, lo, hi)` from the candidates left and the best code so far (R102). -/
def searchFrom (p : ExpPolicy) (x : Dyad) (lo hi : Int) (cands : List Nat) (best : Option FloatCode) :
    Option FloatCode :=
  match cands with
  | [] => best
  | e :: rest =>
    let y := x.scale e
    let m := roundHAZ y
    if m < lo ∨ hi < m then best
    else if p = .smallestExact ∧ y.isInt m = true then some ⟨m, e⟩
    else searchFrom p x lo hi rest (some ⟨m, e⟩)

/-- `Search(x, E, lo, hi)`; none only if the very first candidate is out of range (R102). -/
def search (p : ExpPolicy) (x : Dyad) (cands : List Nat) (lo hi : Int) : Option FloatCode :=
  searchFrom p x lo hi cands none

/-- The candidate exponents of Float3: 0, 1, ..., 255 (R104). -/
def float3Exps : List Nat := List.range 256

/-- The candidate exponents of Float2: 0, 2, ..., 30 (R106). -/
def float2Exps : List Nat := (List.range 16).map (fun c => 2 * c)

/-- `Enc3(x)` (R104). -/
def enc3 (p : ExpPolicy) (x : Dyad) : Option FloatCode := search p x float3Exps (-32768) 32767

/-- `Enc2(x)` (R106). -/
def enc2 (p : ExpPolicy) (x : Dyad) : Option FloatCode := search p x float2Exps (-2047) 2047

/-- `Dec3` and `Dec2`: `m / 2^e`, exact, for every code (R105, R107). -/
def decodeFloat (c : FloatCode) : Dyad := ⟨c.m, c.e⟩

/-- `Pack3(m, e)`: the three bytes, in the order `F3_ORDER` gives (R100). -/
def pack3 (o : F3Order) (c : FloatCode) : List Byte :=
  let t := BitVec.ofInt 16 c.m
  match o with
  | .mantHiMantLoExp => [t.extractLsb' 8 8, t.extractLsb' 0 8, BitVec.ofNat 8 c.e]
  | .expMantHiMantLo => [BitVec.ofNat 8 c.e, t.extractLsb' 8 8, t.extractLsb' 0 8]

/-- `Unpack3(b0, b1, b2)`, the inverse of `Pack3` (R100). -/
def unpack3 (o : F3Order) (b0 b1 b2 : Byte) : FloatCode :=
  match o with
  | .mantHiMantLoExp => ⟨(b0 ++ b1).toInt, b2.toNat⟩
  | .expMantHiMantLo => ⟨(b1 ++ b2).toInt, b0.toNat⟩

/-- `Pack2(m, e)`: `b0 = {c[3:0], m[11:8]}` with `c = e / 2`, `b1 = m[7:0]` (R101). -/
def pack2 (c : FloatCode) : List Byte :=
  let t := BitVec.ofInt 12 c.m
  [(BitVec.ofNat 4 (c.e / 2) ++ t.extractLsb' 8 4 : BitVec 8), t.extractLsb' 0 8]

/-- `Unpack2(b0, b1)`: `m = signed_12({b0[3:0], b1})`, `e = 2 * b0[7:4]` (R101). -/
def unpack2 (b0 b1 : Byte) : FloatCode :=
  ⟨(b0.extractLsb' 0 4 ++ b1).toInt, 2 * (b0.extractLsb' 4 4).toNat⟩

/-- The value of a binary32 word (R112): a number, or none of the two things that are no number. -/
inductive RealOperand where
  | real (x : Dyad)
  | inf
  | nan
  deriving DecidableEq, Repr

/-- `(-1)^s * a`. -/
def signedNat (s : Bool) (a : Nat) : Int := if s then -(a : Int) else (a : Int)

/-- `b32_to_real(w)`, exact, subnormals included; both zeros give the number 0 (R111, R112). -/
def b32ToReal (w : Word) : RealOperand :=
  let s := w.getLsbD 31
  let x := (w.extractLsb' 23 8).toNat
  let f := (w.extractLsb' 0 23).toNat
  if x = 255 then (if f = 0 then .inf else .nan)
  else if x = 0 then .real ⟨signedNat s f, 149⟩
  else if 150 ≤ x then .real ⟨signedNat s ((2 ^ 23 + f) * 2 ^ (x - 150)), 0⟩
  else .real ⟨signedNat s (2 ^ 23 + f), 150 - x⟩

/-- `RNE(n / d)`: the nearest integer, a tie to the even one (R113). -/
def roundNearestEven (n d : Nat) : Nat :=
  let q := n / d
  let r := n % d
  if 2 * r < d then q else if d < 2 * r then q + 1 else q + q % 2

/-- A binary32 word from its three fields (R111). -/
def b32Word (s : Bool) (x f : Nat) : Word := BitVec.ofBool s ++ BitVec.ofNat 8 x ++ BitVec.ofNat 23 f

/-- `real_to_b32(q)` of a decoded value (R113). With `a = |num|`, `q >= 2^-126` reads `2^den <= a * 2^126`, and
`E = floor(log2(a)) - den`. -/
def realToB32 (q : Dyad) : Word :=
  if q.num = 0 then 0#32
  else
    let s := decide (q.num < 0)
    let a := q.num.natAbs
    if 2 ^ q.den ≤ a * 2 ^ 126 then
      b32Word s (a.log2 + 127 - q.den) (a * 2 ^ 23 / 2 ^ a.log2 - 2 ^ 23)
    else b32Word s 0 (roundNearestEven (a * 2 ^ 149) (2 ^ q.den))

/-- The operand check of a command that takes a real, and its code: ERR_NAN for an infinity or a NaN, ERR_RANGE when no
exponent fits (R110, R112, R114, R116; the order is R144). -/
def encodeOperand (enc : Dyad → Option FloatCode) (w : Word) : Except Status FloatCode :=
  match b32ToReal w with
  | .inf => .error .errNan
  | .nan => .error .errNan
  | .real x =>
    match enc x with
    | none => .error .errRange
    | some c => .ok c

/-- The bytes a Float2 setter stores (R123, R125). -/
def float2Bytes (p : Params) (w : Word) : Except Status (List Byte) :=
  (encodeOperand (enc2 p.expPolicy) w).map pack2

/-- The bytes a Float3 setter stores (R131). -/
def float3Bytes (p : Params) (w : Word) : Except Status (List Byte) :=
  (encodeOperand (enc3 p.expPolicy) w).map (pack3 p.f3Order)

/-- The binary32 word of two stored bytes (R117, R122). -/
def float2Word (b0 b1 : Byte) : Word := realToB32 (decodeFloat (unpack2 b0 b1))

/-- The binary32 word of three stored bytes (R115, R130). -/
def float3Word (p : Params) (b0 b1 b2 : Byte) : Word := realToB32 (decodeFloat (unpack3 p.f3Order b0 b1 b2))

/-- A code of a few bytes on the port: "the byte that goes to the lowest buffer index most significant" (R31). -/
def bytesWord (bs : List Byte) : Word := bs.foldl (fun acc b => (acc <<< 8) ||| b.setWidth 32) 0#32

end Sys2Proof.Machine
end

