-- ==== Sys2Proof/Machine/Converters.lean ====
section
/-! DEFINITION. The stateless float converters (spec 42_float.md R114 to R117). They read and write no state. -/

namespace Sys2Proof.Machine

/-- The common shape of `F3ENC` and `F2ENC`: the operand's fault, or the packed code as a word (R31). -/
def State.answerBytes (s : State) (operand : Except Status (List Byte)) : Result :=
  match operand with
  | .error code => s.raise code
  | .ok bs => s.answer (bytesWord bs)

/-- `F3ENC` (R114). -/
def execF3enc (wdata : Word) (s : State) : Result := s.answerBytes (float3Bytes Config.params wdata)

/-- `F3DEC` (R115): `WDATA[31:24]` is ignored; every code is valid. -/
def execF3dec (wdata : Word) (s : State) : Result :=
  s.answer (float3Word Config.params (wdata.extractLsb' 16 8) (wdata.extractLsb' 8 8) (wdata.extractLsb' 0 8))

/-- `F2ENC` (R116). -/
def execF2enc (wdata : Word) (s : State) : Result := s.answerBytes (float2Bytes Config.params wdata)

/-- `F2DEC` (R117): `WDATA[31:16]` is ignored; every code is valid. -/
def execF2dec (wdata : Word) (s : State) : Result :=
  s.answer (float2Word (wdata.extractLsb' 8 8) (wdata.extractLsb' 0 8))

end Sys2Proof.Machine
end

