-- ==== Sys2Proof/Machine/Queries.lean ====
section
/-! DEFINITION. The layout queries (spec 41_layout.md R91 to R93). They read `LAY` and change no state. -/

namespace Sys2Proof.Machine

/-- A layout entry as response data: `{0b0000000, en, width[7:0], 0b00000, bit[2:0], off[7:0]}` (R92). -/
def LayEntry.word (e : LayEntry) : Word :=
  0#7 ++ BitVec.ofBool e.en ++ BitVec.ofNat 8 e.width ++ 0#5 ++ BitVec.ofNat 3 e.bit ++ BitVec.ofNat 8 e.off

/-- The common shape of `TEN` and `TOFF`: ERR_INDEX for an identifier that names no field (R141). -/
def State.query (s : State) (idx : Byte) (value : LayEntry → Word) : Result :=
  match fieldOf? idx with
  | none => s.raise .errIndex
  | some f => s.answer (value (s.lay.entry f))

/-- `TEN` (R91). -/
def execTen (idx : Byte) (s : State) : Result := s.query idx (fun e => boolWord e.en)

/-- `TOFF` (R92). -/
def execToff (idx : Byte) (s : State) : Result := s.query idx LayEntry.word

/-- `TSIZE` (R93). -/
def execTsize (s : State) : Result := s.answer (BitVec.ofNat 32 s.lay.size)

end Sys2Proof.Machine
end

