-- ==== Sys2Proof/Machine/Settings.lean ====
section
/-! DEFINITION. The settings commands (spec 40_settings.md R60 to R85): eleven getters, eleven setters, and the raw byte
accessors. Every getter answers one field with its read transform; every setter replaces exactly its field's bits by the
write transform of the operand and answers 0; none of the 22 can fault (R60). -/

namespace Sys2Proof.Machine

/-- The read transform of the data rate: code 3 is "treated as value 1" (R68, conflict C4). -/
def rateValue (raw : Word) : Word := if raw = 3#32 then 1#32 else raw

/-- `min(v, 32)` on an unsigned word (R72, R73, R171). -/
def clampPayload (v : Word) : Word := if v.toNat ≤ 32 then v else 32#32

/-- `SGET_DYN` (R62). -/
def execSgetDyn (s : State) : Result := s.answer (s.getSetting .dyn)

/-- `SGET_ACK` (R64). -/
def execSgetAck (s : State) : Result := s.answer (s.getSetting .ack)

/-- `SGET_ACKP` (R66). -/
def execSgetAckp (s : State) : Result := s.answer (s.getSetting .ackp)

/-- `SGET_RATE` (R68: the reserved code 3 reads 1). -/
def execSgetRate (s : State) : Result := s.answer (rateValue (s.getSetting .rate))

/-- `SGET_CHAN` (R70). -/
def execSgetChan (s : State) : Result := s.answer (s.getSetting .chan)

/-- `SGET_PSZ` (R72, conflict C2: a raw byte above 32 reads 32). -/
def execSgetPsz (s : State) : Result := s.answer (clampPayload (s.getSetting .psz))

/-- `SGET_FREQ` (R74). -/
def execSgetFreq (s : State) : Result := s.answer (s.getSetting .freq)

/-- `SGET_RDLY` (R76). -/
def execSgetRdly (s : State) : Result := s.answer (s.getSetting .rdly)

/-- `SGET_NCH` (R78: stored is the value minus 1). -/
def execSgetNch (s : State) : Result := s.answer (s.getSetting .nch + 1#32)

/-- `SGET_CHSZ` (R80: stored is the value minus 1). -/
def execSgetChsz (s : State) : Result := s.answer (s.getSetting .chsz + 1#32)

/-- `SGET_TMSK` (R82). -/
def execSgetTmsk (s : State) : Result := s.answer (s.getSetting .tmsk)

/-- `SSET_DYN` (R63). -/
def execSsetDyn (wdata : Word) (s : State) : Result := (s.putSetting .dyn wdata).answer 0#32

/-- `SSET_ACK` (R65). -/
def execSsetAck (wdata : Word) (s : State) : Result := (s.putSetting .ack wdata).answer 0#32

/-- `SSET_ACKP` (R67). -/
def execSsetAckp (wdata : Word) (s : State) : Result := (s.putSetting .ackp wdata).answer 0#32

/-- `SSET_RATE` (R69: 3 is stored as 3). -/
def execSsetRate (wdata : Word) (s : State) : Result := (s.putSetting .rate wdata).answer 0#32

/-- `SSET_CHAN` (R71). -/
def execSsetChan (wdata : Word) (s : State) : Result := (s.putSetting .chan wdata).answer 0#32

/-- `SSET_PSZ` (R73: the clamp acts on the whole operand). -/
def execSsetPsz (wdata : Word) (s : State) : Result := (s.putSetting .psz (clampPayload wdata)).answer 0#32

/-- `SSET_FREQ` (R75). -/
def execSsetFreq (wdata : Word) (s : State) : Result := (s.putSetting .freq wdata).answer 0#32

/-- `SSET_RDLY` (R77). -/
def execSsetRdly (wdata : Word) (s : State) : Result := (s.putSetting .rdly wdata).answer 0#32

/-- `SSET_NCH` (R79, conflict C7: `(WDATA - 1) mod 2^32`, then the low bits). -/
def execSsetNch (wdata : Word) (s : State) : Result := (s.putSetting .nch (wdata - 1#32)).answer 0#32

/-- `SSET_CHSZ` (R81, conflict C7: `(WDATA - 1) mod 2^32`, then the low bits). -/
def execSsetChsz (wdata : Word) (s : State) : Result := (s.putSetting .chsz (wdata - 1#32)).answer 0#32

/-- `SSET_TMSK` (R83: LAY follows in the same step, TLM is not touched). -/
def execSsetTmsk (wdata : Word) (s : State) : Result := (s.putSetting .tmsk wdata).answer 0#32

/-- `SRDB` (R84): the stored byte with no field transform; ERR_INDEX from index 32 on. -/
def execSrdb (idx : Byte) (s : State) : Result :=
  if Config.setSize ≤ idx.toNat then s.raise .errIndex else s.answer (zextByte (s.byte .set idx.toNat))

/-- `SWRB` (R85): the whole byte, no clamp; ERR_INDEX from index 32 on, and nothing is written then. -/
def execSwrb (idx : Byte) (wdata : Word) (s : State) : Result :=
  if Config.setSize ≤ idx.toNat then s.raise .errIndex
  else (s.writeSet idx.toNat (lowByte wdata)).answer 0#32

end Sys2Proof.Machine
end

