-- ==== Sys2Proof/Machine/System.lean ====
section
/-! DEFINITION. The system command (spec 44_system.md R138). No control transfer, environment call or privileged command
exists (R139). -/

namespace Sys2Proof.Machine

/-- `NOP` (R138): reads and writes no state; its one effect is its response. -/
def execNop (s : State) : Result := s.answer 0#32

end Sys2Proof.Machine
end

