-- ==== Sys2Proof/Machine/Telemetry.lean ====
section
/-! DEFINITION. The telemetry data commands (spec 43_telemetry.md R120 to R136): field getters and setters, raw access,
clear. The order of checks is R120: index, enable, operand, access. Positions come from `LAY`. -/

namespace Sys2Proof.Machine

/-- The Float2 value stored at a layout entry (R122, R124). -/
def State.readFloat2 (s : State) (e : LayEntry) : Result :=
  s.readChannel e.en e.off 2 (float2Word (s.byte .tlm e.off) (s.byte .tlm (e.off + 1)))

/-- Store a real operand as Float2 at a layout entry (R123, R125). -/
def State.writeFloat2 (p : Params) (s : State) (e : LayEntry) (wdata : Word) : Result :=
  s.writeChannel e.en e.off (float2Bytes p wdata)

/-- The first byte of a gps axis: x, y, z back to back, 3 bytes each (R130). -/
def axisOffset (e : LayEntry) (axis : Nat) : Nat := e.off + 3 * axis

/-- The Float3 value of a gps axis (R130). -/
def State.readFloat3 (p : Params) (s : State) (e : LayEntry) (axis : Nat) : Result :=
  s.readChannel e.en (axisOffset e axis) 3
    (float3Word p (s.byte .tlm (axisOffset e axis)) (s.byte .tlm (axisOffset e axis + 1))
      (s.byte .tlm (axisOffset e axis + 2)))

/-- Store a real operand as Float3 in a gps axis (R131). -/
def State.writeFloat3 (p : Params) (s : State) (e : LayEntry) (axis : Nat) (wdata : Word) : Result :=
  s.writeChannel e.en (axisOffset e axis) (float3Bytes p wdata)

/-- `TGET_BAT` (R122). -/
def execTgetBat (s : State) : Result := s.readFloat2 s.lay.bat

/-- `TGET_CUR` (R124). -/
def execTgetCur (s : State) : Result := s.readFloat2 s.lay.cur

/-- `TGET_TEMP` (R126). -/
def execTgetTemp (s : State) : Result :=
  s.readChannel s.lay.temp.en s.lay.temp.off 1 (sextByte (s.byte .tlm s.lay.temp.off))

/-- `TGET_RPM` (R128): big-endian. -/
def execTgetRpm (s : State) : Result :=
  s.readChannel s.lay.rpm.en s.lay.rpm.off 2 (sextPair (s.byte .tlm s.lay.rpm.off) (s.byte .tlm (s.lay.rpm.off + 1)))

/-- `TGET_GPS` (R130): the index check comes before the enable check. -/
def execTgetGps (idx : Byte) (s : State) : Result :=
  if 3 ≤ idx.toNat then s.raise .errIndex else s.readFloat3 Config.params s.lay.gps idx.toNat

/-- `TGET_ALM` (R132): alarm `i` exists when `i` is below the alarm count, and is bit `LAY.ALM.bit + i`. -/
def execTgetAlm (idx : Byte) (s : State) : Result :=
  if 3 ≤ idx.toNat then s.raise .errIndex
  else s.readChannel (decide (idx.toNat < s.lay.alm.width)) s.lay.alm.off 1
    (boolWord ((s.byte .tlm s.lay.alm.off).getLsbD (s.lay.alm.bit + idx.toNat)))

/-- `TRDB` (R134): the bound is the record's length, not the physical 17. -/
def execTrdb (idx : Byte) (s : State) : Result :=
  if s.lay.size ≤ idx.toNat then s.raise .errIndex
  else Space.tlm.within idx.toNat 1 (s.answer (zextByte (s.byte .tlm idx.toNat)))

/-- `TSET_BAT` (R123). -/
def execTsetBat (wdata : Word) (s : State) : Result := s.writeFloat2 Config.params s.lay.bat wdata

/-- `TSET_CUR` (R125). -/
def execTsetCur (wdata : Word) (s : State) : Result := s.writeFloat2 Config.params s.lay.cur wdata

/-- `TSET_TEMP` (R127): the low byte wins, no saturation. -/
def execTsetTemp (wdata : Word) (s : State) : Result :=
  s.writeChannel s.lay.temp.en s.lay.temp.off (.ok [lowByte wdata])

/-- `TSET_RPM` (R129): the low 16 bits win, big-endian. -/
def execTsetRpm (wdata : Word) (s : State) : Result :=
  s.writeChannel s.lay.rpm.en s.lay.rpm.off (.ok (lowPair wdata))

/-- `TSET_GPS` (R131): only the three bytes of the named axis change. -/
def execTsetGps (idx : Byte) (wdata : Word) (s : State) : Result :=
  if 3 ≤ idx.toNat then s.raise .errIndex else s.writeFloat3 Config.params s.lay.gps idx.toNat wdata

/-- `TSET_ALM` (R133): only bit `LAY.ALM.bit + idx` of the alarm byte changes. -/
def execTsetAlm (idx : Byte) (wdata : Word) (s : State) : Result :=
  if 3 ≤ idx.toNat then s.raise .errIndex
  else s.writeChannel (decide (idx.toNat < s.lay.alm.width)) s.lay.alm.off
    (.ok [putBit (s.byte .tlm s.lay.alm.off) (s.lay.alm.bit + idx.toNat) (flagBit wdata)])

/-- `TCLR` (R136): all 17 physical bytes, whatever `LAY.size` is. -/
def execTclr (s : State) : Result := (s.writeTlm 0 (List.replicate Config.tlmSize 0#8)).answer 0#32

/-- `TWRB` (R135): the bound is the record's length. -/
def execTwrb (idx : Byte) (wdata : Word) (s : State) : Result :=
  if s.lay.size ≤ idx.toNat then s.raise .errIndex
  else Space.tlm.within idx.toNat 1 ((s.writeTlm idx.toNat [lowByte wdata]).answer 0#32)

end Sys2Proof.Machine
end

