-- ==== Sys2Proof/Machine/Dispatch.lean ====
section
/-! DEFINITION. The dispatch: one arm per command, each one call of its meaning (spec 30_encoding.md R48). -/

namespace Sys2Proof.Machine

def exec (i : Instr) (s : State) : Host.Outcome State Fault Refusal :=
  match i with
  | .nop => Sys2Proof.Machine.execNop s
  | .sgetDyn => Sys2Proof.Machine.execSgetDyn s
  | .sgetAck => Sys2Proof.Machine.execSgetAck s
  | .sgetAckp => Sys2Proof.Machine.execSgetAckp s
  | .sgetRate => Sys2Proof.Machine.execSgetRate s
  | .sgetChan => Sys2Proof.Machine.execSgetChan s
  | .sgetPsz => Sys2Proof.Machine.execSgetPsz s
  | .sgetFreq => Sys2Proof.Machine.execSgetFreq s
  | .sgetRdly => Sys2Proof.Machine.execSgetRdly s
  | .sgetNch => Sys2Proof.Machine.execSgetNch s
  | .sgetChsz => Sys2Proof.Machine.execSgetChsz s
  | .sgetTmsk => Sys2Proof.Machine.execSgetTmsk s
  | .srdb idx => Sys2Proof.Machine.execSrdb idx s
  | .ssetDyn wdata => Sys2Proof.Machine.execSsetDyn wdata s
  | .ssetAck wdata => Sys2Proof.Machine.execSsetAck wdata s
  | .ssetAckp wdata => Sys2Proof.Machine.execSsetAckp wdata s
  | .ssetRate wdata => Sys2Proof.Machine.execSsetRate wdata s
  | .ssetChan wdata => Sys2Proof.Machine.execSsetChan wdata s
  | .ssetPsz wdata => Sys2Proof.Machine.execSsetPsz wdata s
  | .ssetFreq wdata => Sys2Proof.Machine.execSsetFreq wdata s
  | .ssetRdly wdata => Sys2Proof.Machine.execSsetRdly wdata s
  | .ssetNch wdata => Sys2Proof.Machine.execSsetNch wdata s
  | .ssetChsz wdata => Sys2Proof.Machine.execSsetChsz wdata s
  | .ssetTmsk wdata => Sys2Proof.Machine.execSsetTmsk wdata s
  | .swrb idx wdata => Sys2Proof.Machine.execSwrb idx wdata s
  | .tgetBat => Sys2Proof.Machine.execTgetBat s
  | .tgetCur => Sys2Proof.Machine.execTgetCur s
  | .tgetTemp => Sys2Proof.Machine.execTgetTemp s
  | .tgetRpm => Sys2Proof.Machine.execTgetRpm s
  | .tgetGps idx => Sys2Proof.Machine.execTgetGps idx s
  | .tgetAlm idx => Sys2Proof.Machine.execTgetAlm idx s
  | .trdb idx => Sys2Proof.Machine.execTrdb idx s
  | .tsetBat wdata => Sys2Proof.Machine.execTsetBat wdata s
  | .tsetCur wdata => Sys2Proof.Machine.execTsetCur wdata s
  | .tsetTemp wdata => Sys2Proof.Machine.execTsetTemp wdata s
  | .tsetRpm wdata => Sys2Proof.Machine.execTsetRpm wdata s
  | .tsetGps idx wdata => Sys2Proof.Machine.execTsetGps idx wdata s
  | .tsetAlm idx wdata => Sys2Proof.Machine.execTsetAlm idx wdata s
  | .tclr => Sys2Proof.Machine.execTclr s
  | .twrb idx wdata => Sys2Proof.Machine.execTwrb idx wdata s
  | .ten idx => Sys2Proof.Machine.execTen idx s
  | .toff idx => Sys2Proof.Machine.execToff idx s
  | .tsize => Sys2Proof.Machine.execTsize s
  | .f3enc wdata => Sys2Proof.Machine.execF3enc wdata s
  | .f3dec wdata => Sys2Proof.Machine.execF3dec wdata s
  | .f2enc wdata => Sys2Proof.Machine.execF2enc wdata s
  | .f2dec wdata => Sys2Proof.Machine.execF2dec wdata s

end Sys2Proof.Machine
end

