-- ==== Sys2Proof/WellFormed.lean ====
section
/-! DEFINITION. Well-formedness of syntax. A command carries its operand widths in its types and every value of an
operand is an encoding the decoder accepts (spec 30_encoding.md R47, R51, R52; an index a command does not accept is the
response ERR_INDEX, R141, never an ill-formed word), so no check is left for `Instr` (log 14). The assembler notation
has checks: an index is 0..255 (R53), and the pseudo-instructions fix how many bytes they move (R54). -/

namespace Sys2Proof

/-- Every term of `Instr` is well formed: its fields have exactly the widths of R45. -/
def Instr.wellFormed (_ : Instr) : Bool := true

/-- "`idx` is a decimal or `0x` integer 0..255", or a name (R53). -/
def IdxOperand.wellFormed : IdxOperand → Bool
  | .number n => decide (n < 256)
  | .axis _ => true
  | .field _ => true

/-- `SLOAD` lists all 32 bytes; `TLOAD` and `TDUMP` name indices that an 8-bit `IDX` can hold (R54). -/
def Pseudo.wellFormed : Pseudo → Bool
  | .sload bytes => decide (bytes.length = 32)
  | .sdump => true
  | .tload bytes => decide (bytes.length ≤ 256)
  | .tdump n => decide (n ≤ 256)
  | .tsetGps3 _ _ _ => true
  | .tsetAlms _ _ _ => true

end Sys2Proof
end

