-- ==== Sys2Proof/Decode.lean ====
section
/-! DEFINITION. Decoding and encoding of the 48-bit command word (spec 30_encoding.md R45 to R52). The opcode table is a
list of rows; decoding looks `OP` up in it and hands the row the two operand fields. Decoding is total: an `OP` that no
row has is rejected by name (R50). -/

namespace Sys2Proof

/-- `cmd[47:40]` (R45). -/
def opField (w : CommandWord) : Byte := w.extractLsb' 40 8

/-- `cmd[39:32]` (R45). -/
def idxField (w : CommandWord) : Byte := w.extractLsb' 32 8

/-- `cmd[31:0]` (R45). -/
def wdataField (w : CommandWord) : Word := w.extractLsb' 0 32

/-- The command word `{OP, IDX, WDATA}` (R45). -/
def packCommand (op idx : Byte) (wdata : Word) : CommandWord := op ++ idx ++ wdata

/-- One row of the opcode map (R48): the mnemonic, `OP`, the format, and the command its operand fields make. -/
structure OpRow where
  mnemonic : String
  op : Byte
  format : Format
  build : Byte → Word → Instr

/-- The system and settings-read groups of R48 (`OP[7:4]` 0 and 1). -/
def settingsReadRows : List OpRow := [
  ⟨"NOP", 0x00#8, .n, fun _ _ => .nop⟩,
  ⟨"SGET_DYN", 0x10#8, .n, fun _ _ => .sgetDyn⟩,
  ⟨"SGET_ACK", 0x11#8, .n, fun _ _ => .sgetAck⟩,
  ⟨"SGET_ACKP", 0x12#8, .n, fun _ _ => .sgetAckp⟩,
  ⟨"SGET_RATE", 0x13#8, .n, fun _ _ => .sgetRate⟩,
  ⟨"SGET_CHAN", 0x14#8, .n, fun _ _ => .sgetChan⟩,
  ⟨"SGET_PSZ", 0x15#8, .n, fun _ _ => .sgetPsz⟩,
  ⟨"SGET_FREQ", 0x16#8, .n, fun _ _ => .sgetFreq⟩,
  ⟨"SGET_RDLY", 0x17#8, .n, fun _ _ => .sgetRdly⟩,
  ⟨"SGET_NCH", 0x18#8, .n, fun _ _ => .sgetNch⟩,
  ⟨"SGET_CHSZ", 0x19#8, .n, fun _ _ => .sgetChsz⟩,
  ⟨"SGET_TMSK", 0x1A#8, .n, fun _ _ => .sgetTmsk⟩,
  ⟨"SRDB", 0x1F#8, .i, fun idx _ => .srdb idx⟩]

/-- The settings-write group of R48 (`OP[7:4]` 2). -/
def settingsWriteRows : List OpRow := [
  ⟨"SSET_DYN", 0x20#8, .w, fun _ wdata => .ssetDyn wdata⟩,
  ⟨"SSET_ACK", 0x21#8, .w, fun _ wdata => .ssetAck wdata⟩,
  ⟨"SSET_ACKP", 0x22#8, .w, fun _ wdata => .ssetAckp wdata⟩,
  ⟨"SSET_RATE", 0x23#8, .w, fun _ wdata => .ssetRate wdata⟩,
  ⟨"SSET_CHAN", 0x24#8, .w, fun _ wdata => .ssetChan wdata⟩,
  ⟨"SSET_PSZ", 0x25#8, .w, fun _ wdata => .ssetPsz wdata⟩,
  ⟨"SSET_FREQ", 0x26#8, .w, fun _ wdata => .ssetFreq wdata⟩,
  ⟨"SSET_RDLY", 0x27#8, .w, fun _ wdata => .ssetRdly wdata⟩,
  ⟨"SSET_NCH", 0x28#8, .w, fun _ wdata => .ssetNch wdata⟩,
  ⟨"SSET_CHSZ", 0x29#8, .w, fun _ wdata => .ssetChsz wdata⟩,
  ⟨"SSET_TMSK", 0x2A#8, .w, fun _ wdata => .ssetTmsk wdata⟩,
  ⟨"SWRB", 0x2F#8, .iw, fun idx wdata => .swrb idx wdata⟩]

/-- The telemetry-read group of R48 (`OP[7:4]` 3). -/
def telemetryReadRows : List OpRow := [
  ⟨"TGET_BAT", 0x30#8, .n, fun _ _ => .tgetBat⟩,
  ⟨"TGET_CUR", 0x31#8, .n, fun _ _ => .tgetCur⟩,
  ⟨"TGET_TEMP", 0x32#8, .n, fun _ _ => .tgetTemp⟩,
  ⟨"TGET_RPM", 0x33#8, .n, fun _ _ => .tgetRpm⟩,
  ⟨"TGET_GPS", 0x34#8, .i, fun idx _ => .tgetGps idx⟩,
  ⟨"TGET_ALM", 0x35#8, .i, fun idx _ => .tgetAlm idx⟩,
  ⟨"TRDB", 0x3F#8, .i, fun idx _ => .trdb idx⟩]

/-- The telemetry-write group of R48 (`OP[7:4]` 4). -/
def telemetryWriteRows : List OpRow := [
  ⟨"TSET_BAT", 0x40#8, .w, fun _ wdata => .tsetBat wdata⟩,
  ⟨"TSET_CUR", 0x41#8, .w, fun _ wdata => .tsetCur wdata⟩,
  ⟨"TSET_TEMP", 0x42#8, .w, fun _ wdata => .tsetTemp wdata⟩,
  ⟨"TSET_RPM", 0x43#8, .w, fun _ wdata => .tsetRpm wdata⟩,
  ⟨"TSET_GPS", 0x44#8, .iw, fun idx wdata => .tsetGps idx wdata⟩,
  ⟨"TSET_ALM", 0x45#8, .iw, fun idx wdata => .tsetAlm idx wdata⟩,
  ⟨"TCLR", 0x4E#8, .n, fun _ _ => .tclr⟩,
  ⟨"TWRB", 0x4F#8, .iw, fun idx wdata => .twrb idx wdata⟩]

/-- The layout-query and float-conversion groups of R48 (`OP[7:4]` 5 and 6). -/
def layoutAndFloatRows : List OpRow := [
  ⟨"TEN", 0x50#8, .i, fun idx _ => .ten idx⟩,
  ⟨"TOFF", 0x51#8, .i, fun idx _ => .toff idx⟩,
  ⟨"TSIZE", 0x52#8, .n, fun _ _ => .tsize⟩,
  ⟨"F3ENC", 0x60#8, .w, fun _ wdata => .f3enc wdata⟩,
  ⟨"F3DEC", 0x61#8, .w, fun _ wdata => .f3dec wdata⟩,
  ⟨"F2ENC", 0x62#8, .w, fun _ wdata => .f2enc wdata⟩,
  ⟨"F2DEC", 0x63#8, .w, fun _ wdata => .f2dec wdata⟩]

/-- The opcode map: the 47 rows of R48. -/
def opTable : List OpRow :=
  settingsReadRows ++ settingsWriteRows ++ telemetryReadRows ++ telemetryWriteRows ++ layoutAndFloatRows

/-- Why a word is no command. -/
inductive DecodeError where
  /-- `OP` is one of the 209 values no row has (R50); the machine answers `(ERR_OPCODE, 0)`. -/
  | undefinedOpcode (op : Byte)
  deriving DecidableEq, Repr

/-- The row of an `OP` value: "A command is selected by `OP` alone" (R48). -/
def opRow? (op : Byte) : Option OpRow := opTable.find? (fun r => r.op == op)

/-- Decoding, total on all 2^48 words and independent of the state (R50, R52). Fields the format does not read are
ignored (R51). -/
def decode (w : CommandWord) : Except DecodeError Instr :=
  match opRow? (opField w) with
  | some r => .ok (r.build (idxField w) (wdataField w))
  | none => .error (.undefinedOpcode (opField w))

/-- The opcode of each command (R48). -/
def Instr.op : Instr → Byte
  | .nop => 0x00#8
  | .sgetDyn => 0x10#8
  | .sgetAck => 0x11#8
  | .sgetAckp => 0x12#8
  | .sgetRate => 0x13#8
  | .sgetChan => 0x14#8
  | .sgetPsz => 0x15#8
  | .sgetFreq => 0x16#8
  | .sgetRdly => 0x17#8
  | .sgetNch => 0x18#8
  | .sgetChsz => 0x19#8
  | .sgetTmsk => 0x1A#8
  | .srdb _ => 0x1F#8
  | .ssetDyn _ => 0x20#8
  | .ssetAck _ => 0x21#8
  | .ssetAckp _ => 0x22#8
  | .ssetRate _ => 0x23#8
  | .ssetChan _ => 0x24#8
  | .ssetPsz _ => 0x25#8
  | .ssetFreq _ => 0x26#8
  | .ssetRdly _ => 0x27#8
  | .ssetNch _ => 0x28#8
  | .ssetChsz _ => 0x29#8
  | .ssetTmsk _ => 0x2A#8
  | .swrb _ _ => 0x2F#8
  | .tgetBat => 0x30#8
  | .tgetCur => 0x31#8
  | .tgetTemp => 0x32#8
  | .tgetRpm => 0x33#8
  | .tgetGps _ => 0x34#8
  | .tgetAlm _ => 0x35#8
  | .trdb _ => 0x3F#8
  | .tsetBat _ => 0x40#8
  | .tsetCur _ => 0x41#8
  | .tsetTemp _ => 0x42#8
  | .tsetRpm _ => 0x43#8
  | .tsetGps _ _ => 0x44#8
  | .tsetAlm _ _ => 0x45#8
  | .tclr => 0x4E#8
  | .twrb _ _ => 0x4F#8
  | .ten _ => 0x50#8
  | .toff _ => 0x51#8
  | .tsize => 0x52#8
  | .f3enc _ => 0x60#8
  | .f3dec _ => 0x61#8
  | .f2enc _ => 0x62#8
  | .f2dec _ => 0x63#8

/-- The format of each command (R47). -/
def Instr.format : Instr → Format
  | .nop => .n
  | .sgetDyn => .n
  | .sgetAck => .n
  | .sgetAckp => .n
  | .sgetRate => .n
  | .sgetChan => .n
  | .sgetPsz => .n
  | .sgetFreq => .n
  | .sgetRdly => .n
  | .sgetNch => .n
  | .sgetChsz => .n
  | .sgetTmsk => .n
  | .srdb _ => .i
  | .ssetDyn _ => .w
  | .ssetAck _ => .w
  | .ssetAckp _ => .w
  | .ssetRate _ => .w
  | .ssetChan _ => .w
  | .ssetPsz _ => .w
  | .ssetFreq _ => .w
  | .ssetRdly _ => .w
  | .ssetNch _ => .w
  | .ssetChsz _ => .w
  | .ssetTmsk _ => .w
  | .swrb _ _ => .iw
  | .tgetBat => .n
  | .tgetCur => .n
  | .tgetTemp => .n
  | .tgetRpm => .n
  | .tgetGps _ => .i
  | .tgetAlm _ => .i
  | .trdb _ => .i
  | .tsetBat _ => .w
  | .tsetCur _ => .w
  | .tsetTemp _ => .w
  | .tsetRpm _ => .w
  | .tsetGps _ _ => .iw
  | .tsetAlm _ _ => .iw
  | .tclr => .n
  | .twrb _ _ => .iw
  | .ten _ => .i
  | .toff _ => .i
  | .tsize => .n
  | .f3enc _ => .w
  | .f3dec _ => .w
  | .f2enc _ => .w
  | .f2dec _ => .w

/-- The `IDX` field of a command: its operand, and 0 where the format does not read it (R51). -/
def Instr.idx : Instr → Byte
  | .nop => 0#8
  | .sgetDyn => 0#8
  | .sgetAck => 0#8
  | .sgetAckp => 0#8
  | .sgetRate => 0#8
  | .sgetChan => 0#8
  | .sgetPsz => 0#8
  | .sgetFreq => 0#8
  | .sgetRdly => 0#8
  | .sgetNch => 0#8
  | .sgetChsz => 0#8
  | .sgetTmsk => 0#8
  | .srdb idx => idx
  | .ssetDyn _ => 0#8
  | .ssetAck _ => 0#8
  | .ssetAckp _ => 0#8
  | .ssetRate _ => 0#8
  | .ssetChan _ => 0#8
  | .ssetPsz _ => 0#8
  | .ssetFreq _ => 0#8
  | .ssetRdly _ => 0#8
  | .ssetNch _ => 0#8
  | .ssetChsz _ => 0#8
  | .ssetTmsk _ => 0#8
  | .swrb idx _ => idx
  | .tgetBat => 0#8
  | .tgetCur => 0#8
  | .tgetTemp => 0#8
  | .tgetRpm => 0#8
  | .tgetGps idx => idx
  | .tgetAlm idx => idx
  | .trdb idx => idx
  | .tsetBat _ => 0#8
  | .tsetCur _ => 0#8
  | .tsetTemp _ => 0#8
  | .tsetRpm _ => 0#8
  | .tsetGps idx _ => idx
  | .tsetAlm idx _ => idx
  | .tclr => 0#8
  | .twrb idx _ => idx
  | .ten idx => idx
  | .toff idx => idx
  | .tsize => 0#8
  | .f3enc _ => 0#8
  | .f3dec _ => 0#8
  | .f2enc _ => 0#8
  | .f2dec _ => 0#8

/-- The `WDATA` field of a command: its operand, and 0 where the format does not read it (R51). -/
def Instr.wdata : Instr → Word
  | .nop => 0#32
  | .sgetDyn => 0#32
  | .sgetAck => 0#32
  | .sgetAckp => 0#32
  | .sgetRate => 0#32
  | .sgetChan => 0#32
  | .sgetPsz => 0#32
  | .sgetFreq => 0#32
  | .sgetRdly => 0#32
  | .sgetNch => 0#32
  | .sgetChsz => 0#32
  | .sgetTmsk => 0#32
  | .srdb _ => 0#32
  | .ssetDyn wdata => wdata
  | .ssetAck wdata => wdata
  | .ssetAckp wdata => wdata
  | .ssetRate wdata => wdata
  | .ssetChan wdata => wdata
  | .ssetPsz wdata => wdata
  | .ssetFreq wdata => wdata
  | .ssetRdly wdata => wdata
  | .ssetNch wdata => wdata
  | .ssetChsz wdata => wdata
  | .ssetTmsk wdata => wdata
  | .swrb _ wdata => wdata
  | .tgetBat => 0#32
  | .tgetCur => 0#32
  | .tgetTemp => 0#32
  | .tgetRpm => 0#32
  | .tgetGps _ => 0#32
  | .tgetAlm _ => 0#32
  | .trdb _ => 0#32
  | .tsetBat wdata => wdata
  | .tsetCur wdata => wdata
  | .tsetTemp wdata => wdata
  | .tsetRpm wdata => wdata
  | .tsetGps _ wdata => wdata
  | .tsetAlm _ wdata => wdata
  | .tclr => 0#32
  | .twrb _ wdata => wdata
  | .ten _ => 0#32
  | .toff _ => 0#32
  | .tsize => 0#32
  | .f3enc wdata => wdata
  | .f3dec wdata => wdata
  | .f2enc wdata => wdata
  | .f2dec wdata => wdata

/-- Encoding: the word the assembler emits, 0 in every ignored field (R45, R51). -/
def encode (i : Instr) : CommandWord := packCommand i.op i.idx i.wdata

/-- The command the decoder reads from a word given as the opcode table numbers it: bit 0 the least significant bit of
the one 48-bit command word, bits at and above `nbits` zero (R45; log 15). A number with a bit at 48 or above is no
command word. -/
def decodeTableWord (nbits w : Nat) : Option Instr :=
  let v := w % 2 ^ nbits
  if v < 2 ^ 48 then (decode (BitVec.ofNat 48 v)).toOption else none

end Sys2Proof
end

