-- ==== Sys2Proof/Machine/Flags.lean ====
section
/-! DEFINITION. The block has no flags and no condition-code register (spec 10_state.md R19). What it computes about a
command's end is the status of the response: this file gives the status its 4-bit code (60_exceptions.md R140), and the
response its 36-bit word (30_encoding.md R46). -/

namespace Sys2Proof.Machine

/-- The value of `rsp[35:32]` (R140). -/
def Status.code : Status → BitVec 4
  | .ok => 0#4
  | .errOpcode => 1#4
  | .errIndex => 2#4
  | .errRange => 3#4
  | .errNan => 4#4

/-- The response word `{STATUS, RDATA}` (R46). -/
def Response.word (r : Response) : BitVec 36 := r.status.code ++ r.rdata

/-- `rsp_valid` (R55): 1 after a step that executed a command. -/
def State.rspValid (s : State) : Bool := s.rsp.isSome

/-- `cmd_ready` (R55, R155): a step is a whole command, so between steps the block can always accept one (log 8). -/
def State.cmdReady (_ : State) : Bool := true

end Sys2Proof.Machine
end

