-- ==== Sys2Proof/Machine/Port.lean ====
section
/-! DEFINITION. The command port (spec 30_encoding.md R55, 70_reset_and_hazards.md R155): what the host drives becomes one
event of the machine. -/

namespace Sys2Proof.Machine

/-- What a step has to do. -/
inductive Event where
  | idle
  | reset
  | command (w : CommandWord)
  deriving DecidableEq, Repr

/-- What one input asks of a block whose `cmd_ready` is `ready`. "Reset has the highest priority: a command presented in
the same cycle as `rst = 1` is not accepted" (R155); a command is accepted when `cmd_valid` and `cmd_ready` are both 1
(R55). -/
def PortInput.event (p : PortInput) (ready : Bool) : Event :=
  if p.rst then .reset else if p.cmdValid && ready then .command p.cmd else .idle

/-- The event of the next step; nothing driven is an idle port (log 10). -/
def State.event (s : State) : Event :=
  match s.inputs with
  | [] => .idle
  | p :: _ => p.event s.cmdReady

/-- The state a step starts from: the input is taken and the last response is over, `rsp_valid` being "1 for exactly one
cycle per accepted command" (R55). -/
def State.begin (s : State) : State := { s with rsp := none, inputs := s.inputs.tail }

/-- Reset by the port (R155): the reset values, and what the host drives later still stands. -/
def State.resetByPort (s : State) : State := { State.reset with inputs := s.inputs }

/-- The port input that presents a command word. -/
def presentCommand (w : CommandWord) : PortInput := ⟨false, true, w⟩

end Sys2Proof.Machine
end

