-- ==== Sys2Proof/Machine/Step.lean ====
section
/-! DEFINITION. One step: take what the host drives, and accept, execute and respond as one transition (spec 30_encoding.md
R55, 00_scope.md R5, 20_memory.md R34). -/

namespace Sys2Proof.Machine

/-- Execute one command word: decode it and run its meaning; a word that is no command answers `(ERR_OPCODE, 0)` (R50,
R141). -/
def execWord (w : CommandWord) (s : State) : Host.Outcome State Fault Refusal :=
  match decode w with
  | .ok i => exec i s
  | .error _ => s.raise .errOpcode

/-- One step of FCODEC. -/
def step (s : State) : Host.Outcome State Fault Refusal :=
  match s.event with
  | .idle => .next s.begin
  | .reset => .next s.begin.resetByPort
  | .command w => execWord w s.begin

/-- The host presents the command word `w`, read as a number of `nbits` bits, at the very next step; it replaces what the
host was about to drive there (log 1). -/
def State.withFetchWord (s : State) (nbits w : Nat) : State :=
  { s with inputs := presentCommand (BitVec.ofNat 48 (w % 2 ^ nbits)) :: s.inputs.tail }

end Sys2Proof.Machine
end

