-- ==== Sys2Proof/Machine/Assembler.lean ====
section
/-! DEFINITION. The notation for command sequences (spec 30_encoding.md R53) and the pseudo-instructions (R54): from a line
of text to a line's parts, from the parts to a command, and from a pseudo-instruction to the commands it stands for. No
part of the machine's step uses it. -/

namespace Sys2Proof.Machine

/-- Why a line is refused. -/
inductive AsmError where
  /-- The mnemonic is not in R48's table. -/
  | unknownMnemonic
  /-- Operands that are not those of the command's format (R47, R53). -/
  | operandShape
  /-- An `idx` outside 0..255, or a name that this command's `idx` does not take (R53). -/
  | badIdx
  /-- A `value` that is no integer, or a decimal literal for a command that reads no real (R53). -/
  | badValue
  /-- A decimal literal with no nearest binary32 number: R53 names no pattern for it (log 17). -/
  | literalTooLarge
  /-- What follows `=>` is no response (R53). -/
  | badExpected
  deriving DecidableEq, Repr

/-- Whether a command reads a real (R49). -/
def readsReal (mnemonic : String) : Bool :=
  ["TSET_BAT", "TSET_CUR", "TSET_GPS", "F3ENC", "F2ENC"].contains mnemonic

/-- The number of an axis: x 0, y 1, z 2 (R49). -/
def axisNumber : Axis → Nat
  | .x => 0
  | .y => 1
  | .z => 2

/-- The identifier of a field: BAT 0 to ALM 5 (R49). -/
def fieldNumber : Field → Nat
  | .bat => 0
  | .cur => 1
  | .temp => 2
  | .rpm => 3
  | .gps => 4
  | .alm => 5

/-- `floor(log2(num / den))` of a positive fraction. -/
def fractionLog2 (num den : Nat) : Int :=
  let e : Int := (num.log2 : Int) - (den.log2 : Int)
  if den * 2 ^ num.log2 ≤ num * 2 ^ den.log2 then e else e - 1

/-- The magnitude bits of the binary32 number nearest to `num / den`, ties to the even significand (R53); none when they
reach the exponent field of an infinity. -/
def nearestB32 (num den : Nat) : Option Nat :=
  if num = 0 then some 0
  else
    let p : Int := max (fractionLog2 num den - 23) (-149)
    let k := if 0 ≤ p then roundNearestEven num (den * 2 ^ p.toNat) else roundNearestEven (num * 2 ^ (-p).toNat) den
    let bits := (p + 149).toNat * 2 ^ 23 + k
    if bits < 255 * 2 ^ 23 then some bits else none

/-- The word of a `value` operand (R53): an integer modulo 2^32, or the pattern of a decimal literal. A negative literal that
rounds to zero keeps its sign, as `-0.0` does (DESIGN CHOICE, log 19). -/
def valueWord (mnemonic : String) : ValueOperand → Except AsmError Word
  | .integer z => .ok (BitVec.ofInt 32 z)
  | .real neg digits exp10 =>
    if readsReal mnemonic then
      match nearestB32 (digits * 10 ^ exp10.toNat) (10 ^ (-exp10).toNat) with
      | some bits => .ok (BitVec.ofBool neg ++ BitVec.ofNat 31 bits)
      | none => .error .literalTooLarge
    else .error .badValue

/-- The byte of an `idx` operand (R53): axis names for the gps commands only, field names for the layout queries only. -/
def idxByte (mnemonic : String) (o : IdxOperand) : Except AsmError Byte :=
  if o.wellFormed then
    match o with
    | .number n => .ok (BitVec.ofNat 8 n)
    | .axis a =>
      if ["TGET_GPS", "TSET_GPS"].contains mnemonic then .ok (BitVec.ofNat 8 (axisNumber a)) else .error .badIdx
    | .field f => if ["TEN", "TOFF"].contains mnemonic then .ok (BitVec.ofNat 8 (fieldNumber f)) else .error .badIdx
  else .error .badIdx

/-- The command of a line: one operand for each field the format reads, 0 in every other field (R51, R53). -/
def assemble (l : AsmLine) : Except AsmError Instr :=
  match opTable.find? (fun r => r.mnemonic == l.mnemonic) with
  | none => .error .unknownMnemonic
  | some r =>
    match r.format, l.idx, l.value with
    | .n, none, none => .ok (r.build 0#8 0#32)
    | .i, some x, none => (idxByte l.mnemonic x).map (fun b => r.build b 0#32)
    | .w, none, some v => (valueWord l.mnemonic v).map (fun w => r.build 0#8 w)
    | .iw, some x, some v =>
      match idxByte l.mnemonic x, valueWord l.mnemonic v with
      | .ok b, .ok w => .ok (r.build b w)
      | .error e, _ => .error e
      | .ok _, .error e => .error e
    | _, _, _ => .error .operandShape

/-- The line that names a command and its operands as numbers (R53). -/
def disassemble (i : Instr) : AsmLine :=
  let name := match opRow? i.op with
    | some r => r.mnemonic
    | none => ""
  match i.format with
  | .n => ⟨name, none, none⟩
  | .i => ⟨name, some (.number i.idx.toNat), none⟩
  | .w => ⟨name, none, some (.integer i.wdata.toNat)⟩
  | .iw => ⟨name, some (.number i.idx.toNat), some (.integer i.wdata.toNat)⟩

/-- Commands made from a list of bytes and their rising indices. -/
def indexed (mk : Byte → Word → Instr) (start : Nat) (bytes : List Byte) : List Instr :=
  match bytes with
  | [] => []
  | b :: rest => mk (BitVec.ofNat 8 start) (b.setWidth 32) :: indexed mk (start + 1) rest

/-- The commands a pseudo-instruction stands for, in their order (R54). -/
def expandPseudo : Pseudo → List Instr
  | .sload bytes => indexed .swrb 0 bytes
  | .sdump => (List.range 32).map (fun i => .srdb (BitVec.ofNat 8 i))
  | .tload bytes => indexed .twrb 0 bytes
  | .tdump n => (List.range n).map (fun i => .trdb (BitVec.ofNat 8 i))
  | .tsetGps3 vx vy vz => [.tsetGps 0#8 vx, .tsetGps 1#8 vy, .tsetGps 2#8 vz]
  | .tsetAlms a0 a1 a2 => [.tsetAlm 0#8 a0, .tsetAlm 1#8 a1, .tsetAlm 2#8 a2]

/-- The pieces of a text between the occurrences of a character. -/
def splitOnChar (c : Char) (cs : List Char) : List (List Char) :=
  match cs with
  | [] => [[]]
  | x :: rest =>
    if x = c then [] :: splitOnChar c rest
    else
      match splitOnChar c rest with
      | [] => [[x]]
      | t :: ts => (x :: t) :: ts

/-- A text without the spaces around it. -/
def trimSpaces (cs : List Char) : List Char :=
  ((cs.dropWhile (· == ' ')).reverse.dropWhile (· == ' ')).reverse

/-- The value of a digit of a base of at most 16. -/
def digitValue (base : Nat) (c : Char) : Option Nat :=
  let n := c.toNat
  let v := if 48 ≤ n ∧ n ≤ 57 then n - 48 else if 65 ≤ n ∧ n ≤ 70 then n - 55 else if 97 ≤ n ∧ n ≤ 102 then n - 87 else 99
  if v < base then some v else none

/-- The number of a text of digits, at least one. -/
def digitsValue (base : Nat) (cs : List Char) : Option Nat :=
  if cs.isEmpty then none
  else cs.foldl (fun acc c => match acc, digitValue base c with | some a, some d => some (a * base + d) | _, _ => none)
    (some 0)

/-- "a decimal or `0x` integer" (R53). -/
def natText (cs : List Char) : Option Nat :=
  match cs with
  | '0' :: 'x' :: rest => digitsValue 16 rest
  | _ => digitsValue 10 cs

/-- An integer `value` (R53): a decimal integer with an optional minus sign, or a `0x` integer. That a plus sign and a minus sign
before `0x` are refused is the model's choice (DESIGN CHOICE, log 19). -/
def intText (cs : List Char) : Option Int :=
  match cs with
  | '-' :: rest => (digitsValue 10 rest).map (fun n => -(n : Int))
  | _ => (natText cs).map (fun n => (n : Int))

/-- The digits of a literal's significand and how many of them follow the point. R53 shows digits on both sides of the point;
that one side may be empty (`.5`, `5.`) is the model's choice (DESIGN CHOICE, log 19). -/
def significandText (cs : List Char) : Option (Nat × Nat) :=
  match splitOnChar '.' cs with
  | [whole] => (digitsValue 10 whole).map (fun n => (n, 0))
  | [whole, fraction] => (digitsValue 10 (whole ++ fraction)).map (fun n => (n, fraction.length))
  | _ => none

/-- The exponent of a decimal literal: a decimal integer. R53 shows a minus sign before it; that a plus sign counts too, and a
`0x` exponent does not, is the model's choice (DESIGN CHOICE, log 19). -/
def exponentText (cs : List Char) : Option Int :=
  match cs with
  | '-' :: rest => (digitsValue 10 rest).map (fun n => -(n : Int))
  | '+' :: rest => (digitsValue 10 rest).map (fun n => (n : Int))
  | _ => (digitsValue 10 cs).map (fun n => (n : Int))

/-- "a decimal literal with a point or exponent (`3.25`, `-0.75`, `1e-3`)" (R53). R53 names no other spelling; which ones count
beyond these examples is the model's choice, here and in `significandText` and `exponentText` (DESIGN CHOICE, log 19): the
exponent letter is a lower-case `e`, and the literal has no plus sign before it. -/
def realText (cs : List Char) : Option ValueOperand :=
  let neg := cs.head? == some '-'
  let unsigned := if neg then cs.tail else cs
  match splitOnChar 'e' unsigned with
  | [sig] => if sig.contains '.' then (significandText sig).map (fun p => .real neg p.1 (-(p.2 : Int))) else none
  | [sig, ex] =>
    match significandText sig, exponentText ex with
    | some p, some z => some (.real neg p.1 (z - (p.2 : Int)))
    | _, _ => none
  | _ => none

/-- A `value` of R53. -/
def valueText (cs : List Char) : Option ValueOperand :=
  match intText cs with
  | some z => some (.integer z)
  | none => realText cs

/-- An `idx` of R53. -/
def idxText (cs : List Char) : Option IdxOperand :=
  match natText cs with
  | some n => some (.number n)
  | none =>
    [("x", IdxOperand.axis .x), ("y", .axis .y), ("z", .axis .z), ("BAT", .field .bat), ("CUR", .field .cur),
      ("TEMP", .field .temp), ("RPM", .field .rpm), ("GPS", .field .gps), ("ALM", .field .alm)].lookup (String.ofList cs)

/-- The status a name stands for (R140). -/
def statusName (cs : List Char) : Option Status :=
  [("OK", Status.ok), ("ERR_OPCODE", .errOpcode), ("ERR_INDEX", .errIndex), ("ERR_RANGE", .errRange),
    ("ERR_NAN", .errNan)].lookup (String.ofList cs)

/-- The status a digit stands for (R46, R140). -/
def statusDigit (cs : List Char) : Option Status :=
  [("0", Status.ok), ("1", .errOpcode), ("2", .errIndex), ("3", .errRange), ("4", .errNan)].lookup (String.ofList cs)

/-- The expected response `S RRRRRRRR`: "the status digit, a space, then the eight data digits" (R46). -/
def hexResponseText (cs : List Char) : Option Response :=
  match splitOnChar ' ' cs with
  | [st, d] =>
    match statusDigit st, digitsValue 16 d with
    | some st, some n => if d.length = 8 then some ⟨st, BitVec.ofNat 32 n⟩ else none
    | _, _ => none
  | _ => none

/-- The expected response `STATUS:RDATA` (R53). R53 shows one number form for `RDATA`, `0x00000020`; that an unprefixed number
is decimal (as it is in `idx` and `value`), that any count of digits will do, and that a number of 2^32 or more is refused are
the model's choice (DESIGN CHOICE, log 18, safe). -/
def symbolicResponseText (st d : List Char) : Option Response :=
  match statusName (trimSpaces st), natText (trimSpaces d) with
  | some st, some n => if n < 2 ^ 32 then some ⟨st, BitVec.ofNat 32 n⟩ else none
  | _, _ => none

/-- An expected response, in either form of R53 (log 18 for what R53 leaves open). -/
def responseText (cs : List Char) : Option Response :=
  match splitOnChar ':' (trimSpaces cs) with
  | [st, d] => symbolicResponseText st d
  | [both] => hexResponseText both
  | _ => none

/-- The parts of a command's text, the comment and the expected response taken off. -/
def lineParts (cs : List Char) : Except AsmError AsmLine :=
  let text := trimSpaces cs
  let name := String.ofList (text.takeWhile (· != ' '))
  let operands := trimSpaces (text.dropWhile (· != ' '))
  let format : Option Format := (opTable.find? (fun r => r.mnemonic == name)).map (fun r => r.format)
  match format, operands, (splitOnChar ',' operands).map trimSpaces with
  | none, _, _ => .error .unknownMnemonic
  | some .n, [], _ => .ok ⟨name, none, none⟩
  | some .i, _, [x] =>
    match idxText x with
    | some x => .ok ⟨name, some x, none⟩
    | none => .error .badIdx
  | some .w, _, [v] =>
    match valueText v with
    | some v => .ok ⟨name, none, some v⟩
    | none => .error .badValue
  | some .iw, _, [x, v] =>
    match idxText x, valueText v with
    | some x, some v => .ok ⟨name, some x, some v⟩
    | none, _ => .error .badIdx
    | some _, none => .error .badValue
  | some _, _, _ => .error .operandShape

/-- One line of text (R53): the command it holds, if any, and the response it expects, if it says one. Where blanks may stand, the
letter case of names, and that a pseudo-instruction (R54) enters as a term of `Pseudo` and not as text, are the model's choice
(DESIGN CHOICE, log 19). -/
def assembleText (line : String) : Except AsmError (Option Instr × Option Response) :=
  let code := trimSpaces (line.toList.takeWhile (· != ';'))
  if code.isEmpty then .ok (none, none)
  else
    let expected := code.dropWhile (· != '=')
    match lineParts (code.takeWhile (· != '=')) with
    | .error e => .error e
    | .ok l =>
      match assemble l, expected with
      | .error e, _ => .error e
      | .ok i, [] => .ok (some i, none)
      | .ok i, '=' :: '>' :: rest =>
        match responseText rest with
        | some r => .ok (some i, some r)
        | none => .error .badExpected
      | .ok _, _ => .error .badExpected

end Sys2Proof.Machine
end

