-- ==== Sys2Proof/Machine/HostRun.lean ====
section
/-! DEFINITION. A run as the spec defines it: "a fold of the command step function over a finite list of command words from
the reset state (or from a stated start state), yielding the list of responses and the end state" (spec
60_exceptions.md R150). -/

namespace Sys2Proof.Machine

/-- The state the host drives with a list of command words, back to back. -/
def State.present (s : State) (ws : List CommandWord) : State := { s with inputs := ws.map presentCommand }

/-- The state and the response of one command word; none if the machine stops. -/
def commandStep (w : CommandWord) (s : State) : Option (State × Response) :=
  match execWord w s with
  | .next t => t.rsp.map (fun r => (t, r))
  | .fault _ => none
  | .refused _ => none

/-- The fold of R150: the end state and the responses, first command first. -/
def runWords (ws : List CommandWord) (s : State) : Option (State × List Response) :=
  match ws with
  | [] => some (s, [])
  | w :: rest =>
    match commandStep w s with
    | none => none
    | some (t, r) => (runWords rest t).map (fun p => (p.1, r :: p.2))

/-- A list of commands, each encoded as the assembler emits it (R51). -/
def runCommands (is : List Instr) (s : State) : Option (State × List Response) := runWords (is.map encode) s

end Sys2Proof.Machine
end

