-- ==== Sys2Proof/Safety.lean ====
section
/-! DEFINITION. What a good state and a safe run are, in the terms claims use: the invariant (spec 10_state.md R16, R27), what
a writing command changes and leaves (20_memory.md R33, R34), which commands write what (R33), which status a command can
return (60_exceptions.md R152), and the read-back of a settings field (40_settings.md R61). -/

namespace Sys2Proof.Machine

/-- The invariant of R16 and R27 (a), with the canonical form of both buffers (log 4): every byte listed is a byte the
buffer has, and `LAY = Layout(SET[6])`. -/
abbrev State.Inv (s : State) : Prop :=
  s.set.wf Space.set.size = true ∧ s.tlm.wf Space.tlm.size = true ∧ s.lay = layout (s.byte .set 6)

/-- Two states agree on all the state of R6: `SET`, `TLM`, `LAY`. -/
abbrev State.SameData (s t : State) : Prop := t.set = s.set ∧ t.tlm = s.tlm ∧ t.lay = s.lay

/-- From `s` to `t`: `SET[a] <- v` and the response `(OK, 0)`; every other byte of `SET`, all of `TLM` and the host's inputs are
as they were, and `LAY` changes only with `SET[6]`, to its layout (R16, R33, R60). -/
abbrev State.WroteSet (s t : State) (a : Nat) (v : Byte) : Prop :=
  t.byte .set a = v ∧ (∀ b, b ≠ a → t.byte .set b = s.byte .set b) ∧ t.tlm = s.tlm ∧
    t.lay = (if a = 6 then layout v else s.lay) ∧ t.inputs = s.inputs ∧ t.rsp = some ⟨.ok, 0#32⟩

/-- From `s` to `t`: the bytes `bs` stand in `TLM` from index `o` on and the response is `(OK, 0)`; every other byte of `TLM`, all
of `SET`, `LAY` and the host's inputs are as they were (R33). -/
abbrev State.WroteTlm (s t : State) (o : Nat) (bs : List Byte) : Prop :=
  (∀ i, (h : i < bs.length) → t.byte .tlm (o + i) = bs[i]) ∧
    (∀ a, a < o ∨ o + bs.length ≤ a → t.byte .tlm a = s.byte .tlm a) ∧
    t.set = s.set ∧ t.lay = s.lay ∧ t.inputs = s.inputs ∧ t.rsp = some ⟨.ok, 0#32⟩

/-- Every word with opcode `op` is the command `i` of its two operand fields (R45, R48). -/
abbrev DecodesTo (op : Byte) (i : Byte → Word → Instr) : Prop :=
  ∀ idx wdata, decode (packCommand op idx wdata) = .ok (i idx wdata)

/-- The commands that write `SET` (R33). -/
def writesSet : Instr → Bool
  | .ssetDyn _ | .ssetAck _ | .ssetAckp _ | .ssetRate _ | .ssetChan _ | .ssetPsz _ | .ssetFreq _ | .ssetRdly _ => true
  | .ssetNch _ | .ssetChsz _ | .ssetTmsk _ | .swrb _ _ => true
  | _ => false

/-- The commands that write `TLM` (R33). -/
def writesTlm : Instr → Bool
  | .tsetBat _ | .tsetCur _ | .tsetTemp _ | .tsetRpm _ | .tsetGps _ _ | .tsetAlm _ _ | .twrb _ _ | .tclr => true
  | _ => false

/-- The commands that write `SET[6]` and so `LAY` (R16, R33). -/
def writesMask : Instr → Bool
  | .ssetTmsk _ => true
  | .swrb idx _ => idx == 6#8
  | _ => false

/-- Which status a defined command can return (R152). -/
def mayReturn (i : Instr) (st : Status) : Bool :=
  match st with
  | .ok => true
  | .errOpcode => false
  | .errIndex =>
    match i with
    | .srdb _ | .swrb _ _ | .trdb _ | .twrb _ _ | .ten _ | .toff _ | .tgetGps _ | .tgetAlm _ | .tsetAlm _ _ => true
    | .tsetGps _ _ => true
    | _ => false
  | .errRange | .errNan =>
    match i with
    | .tsetBat _ | .tsetCur _ | .f3enc _ | .f2enc _ | .tsetGps _ _ => true
    | _ => false

/-- The getter of a settings field (R48). -/
def settingGetter : Setting → Instr
  | .dyn => .sgetDyn
  | .ack => .sgetAck
  | .ackp => .sgetAckp
  | .rate => .sgetRate
  | .chan => .sgetChan
  | .psz => .sgetPsz
  | .freq => .sgetFreq
  | .rdly => .sgetRdly
  | .nch => .sgetNch
  | .chsz => .sgetChsz
  | .tmsk => .sgetTmsk

/-- The setter of a settings field (R48). -/
def settingSetter : Setting → Word → Instr
  | .dyn => .ssetDyn
  | .ack => .ssetAck
  | .ackp => .ssetAckp
  | .rate => .ssetRate
  | .chan => .ssetChan
  | .psz => .ssetPsz
  | .freq => .ssetFreq
  | .rdly => .ssetRdly
  | .nch => .ssetNch
  | .chsz => .ssetChsz
  | .tmsk => .ssetTmsk

/-- The column "legal written values" of R20. `PSZ` is "any", clamped: its legal values are those that read back. -/
def settingLegal (f : Setting) (v : Nat) : Prop :=
  match f with
  | .dyn | .ack | .ackp => v ≤ 1
  | .rate => v ≤ 2
  | .chan => v ≤ 127
  | .psz => v ≤ 32
  | .freq => 1 ≤ v ∧ v ≤ 255
  | .rdly => v ≤ 15
  | .nch => 1 ≤ v ∧ v ≤ 32
  | .chsz => 1 ≤ v ∧ v ≤ 8
  | .tmsk => v ≤ 255

/-- What a getter returns after its setter was given `v`, as the setters' corner cases say (R63 to R83). -/
def settingReadBack (f : Setting) (v : Nat) : Nat :=
  match f with
  | .dyn | .ack | .ackp => v % 2
  | .rate => if v % 4 = 3 then 1 else v % 4
  | .chan | .freq | .tmsk => v % 256
  | .psz => min v 32
  | .rdly => v % 16
  | .nch => if v = 0 then 32 else (v - 1) % 32 + 1
  | .chsz => if v = 0 then 8 else (v - 1) % 8 + 1

/-- The exponents at which a number is in range, `F` of R102. -/
def inRange (x : Dyad) (lo hi : Int) (e : Nat) : Prop := lo ≤ roundHAZ (x.scale e) ∧ roundHAZ (x.scale e) ≤ hi

/-- `x * 2^e` is an integer, `X` of R102. -/
def exactAt (x : Dyad) (e : Nat) : Prop := ∃ k : ℤ, x.toRat * 2 ^ e = k

/-- A float's mantissa and exponent are those of Float3 (R100). -/
abbrev FloatCode.IsFloat3 (c : FloatCode) : Prop := -32768 ≤ c.m ∧ c.m ≤ 32767 ∧ c.e ≤ 255

/-- A float's mantissa and exponent are those of Float2 (R101). -/
abbrev FloatCode.IsFloat2 (c : FloatCode) : Prop := -2048 ≤ c.m ∧ c.m ≤ 2047 ∧ c.e ≤ 30 ∧ c.e % 2 = 0

end Sys2Proof.Machine
end

