-- ==== Sys2Proof/Certificates/Slice0/Obligations.lean ====
section
/-! DEFINITION. What is to be proved of the FCODEC model. Each statement's docstring names the rule of spec/ it formalises;
OBLIGATIONS.json lists them. -/

open Sys2Proof Sys2Proof.Machine

/-! ### Encoding and the step -/

/-- R45, R48, R51: decoding the word the assembler emits for a command gives the command back, whatever its operands. -/
def Obligations.DecodeOfEncodeIsTheCommand : Prop :=
  ∀ i : Instr, i.wellFormed = true → decode (encode i) = .ok i

/-- R51: a word and the word with 0 in every field its format does not read are one command and execute alike. -/
def Obligations.IgnoredFieldsDoNotMatter : Prop :=
  ∀ (w : CommandWord) (i : Instr), decode w = .ok i →
    encode i = packCommand (opField w)
      (if i.format = .i ∨ i.format = .iw then idxField w else 0#8)
      (if i.format = .w ∨ i.format = .iw then wdataField w else 0#32) ∧
    ∀ s : State, execWord w s = execWord (encode i) s

/-- R50: exactly the 209 listed `OP` values are illegal; such a command responds `(ERR_OPCODE, 0)` and changes nothing. -/
def Obligations.UndefinedOpcodesAnswerErrOpcode : Prop :=
  ∀ w : CommandWord,
    let op := (opField w).toNat
    let undefinedOp := (0x01 ≤ op ∧ op ≤ 0x0F) ∨ (0x1B ≤ op ∧ op ≤ 0x1E) ∨ (0x2B ≤ op ∧ op ≤ 0x2E) ∨
      (0x36 ≤ op ∧ op ≤ 0x3E) ∨ (0x46 ≤ op ∧ op ≤ 0x4D) ∨ (0x53 ≤ op ∧ op ≤ 0x5F) ∨ (0x64 ≤ op ∧ op ≤ 0xFF)
    (undefinedOp → ∀ s : State, execWord w s = .next (s.respond ⟨.errOpcode, 0#32⟩)) ∧
      (¬ undefinedOp → ∃ i, decode w = .ok i ∧ ∀ s : State, execWord w s = exec i s)

/-- R48, R49: a few words written out from the spec's encoding decode to the commands they stand for. -/
def Obligations.SampleWordsDecode : Prop :=
  decode 0x000000000000#48 = .ok .nop ∧ decode 0x150000000000#48 = .ok .sgetPsz ∧
    decode 0x2A000000003F#48 = .ok (.ssetTmsk 0x3F#32) ∧ decode 0x2F1F000001A5#48 = .ok (.swrb 31#8 0x1A5#32) ∧
    decode 0x340100000000#48 = .ok (.tgetGps 1#8) ∧ decode 0x4401C0500000#48 = .ok (.tsetGps 1#8 0xC0500000#32) ∧
    decode 0x510400000000#48 = .ok (.toff 4#8) ∧ decode 0x600040500000#48 = .ok (.f3enc 0x40500000#32)

/-- R53: the line that names a command with its operands as numbers assembles to that command. -/
def Obligations.AssembledLineIsTheCommand : Prop :=
  ∀ i : Instr, assemble (disassemble i) = .ok i

/-- R5, R55: when the host presents a word that decodes to a command, the step is that command's meaning, on the state with
the input taken and the last response over. -/
def Obligations.StepRunsTheDecodedCommand : Prop :=
  ∀ (s : State) (w : CommandWord) (rest : List PortInput) (i : Instr),
    s.inputs = ⟨false, true, w⟩ :: rest → i.wellFormed = true → decode w = .ok i →
      step s = exec i { s with rsp := none, inputs := rest }

/-- R155: a step with `rst = 1` gives the reset values and no response, whatever command is presented with it. That the
host's later inputs stay is the model's (log 9). -/
def Obligations.ResetInputGivesTheResetState : Prop :=
  ∀ (s : State) (valid : Bool) (w : CommandWord) (rest : List PortInput),
    s.inputs = ⟨true, valid, w⟩ :: rest →
      ∃ t, step s = .next t ∧ (∀ a, t.byte .set a = 0#8) ∧ (∀ a, t.byte .tlm a = 0#8) ∧ t.lay = layout 0x00#8 ∧
        t.rsp = none ∧ t.inputs = rest

/-- The model's choice for an idle port (log 10; R145, "nothing happens between commands"): the state stays. -/
def Obligations.IdlePortKeepsTheState : Prop :=
  ∀ (s : State) (w : CommandWord) (rest : List PortInput),
    (s.inputs = [] ∨ s.inputs = ⟨false, false, w⟩ :: rest) →
      ∃ t, step s = .next t ∧ s.SameData t ∧ t.rsp = none ∧ t.inputs = s.inputs.tail

/-! ### Reset -/

/-- R26, R155: what reset leaves. -/
def Obligations.ResetValues : Prop :=
  (∀ a, State.reset.byte .set a = 0x00#8) ∧ (∀ a, State.reset.byte .tlm a = 0x00#8) ∧
    State.reset.lay = layout 0x00#8 ∧ State.reset.rsp = none ∧ State.reset.lay.size = 0

/-- The invariant holds at reset. -/
def Obligations.ResetMeetsTheInvariant : Prop := State.reset.Inv

/-- R158: the reset record read through every getter and query. -/
def Obligations.ResetRecordThroughEveryGetter : Prop :=
  (∀ i ∈ [Instr.sgetDyn, .sgetAck, .sgetAckp, .sgetRate, .sgetChan, .sgetPsz, .sgetFreq, .sgetRdly, .sgetTmsk, .tsize,
      .tgetBat, .tgetCur, .tgetTemp, .tgetRpm], exec i State.reset = .next (State.reset.respond ⟨.ok, 0#32⟩)) ∧
  (∀ i ∈ [Instr.sgetNch, .sgetChsz], exec i State.reset = .next (State.reset.respond ⟨.ok, 1#32⟩)) ∧
  (∀ idx : Byte, idx.toNat < 6 → exec (.ten idx) State.reset = .next (State.reset.respond ⟨.ok, 0#32⟩) ∧
      exec (.toff idx) State.reset = .next (State.reset.respond ⟨.ok, 0#32⟩)) ∧
  (∀ idx : Byte, idx.toNat < 3 → exec (.tgetGps idx) State.reset = .next (State.reset.respond ⟨.ok, 0#32⟩) ∧
      exec (.tgetAlm idx) State.reset = .next (State.reset.respond ⟨.ok, 0#32⟩)) ∧
  (∀ idx : Byte, exec (.trdb idx) State.reset = .next (State.reset.respond ⟨.errIndex, 0#32⟩)) ∧
  (∀ idx : Byte, idx.toNat < 32 → exec (.srdb idx) State.reset = .next (State.reset.respond ⟨.ok, 0#32⟩))

/-! ### The whole machine -/

/-- R16, R27 (a): every step keeps the invariant: `LAY = Layout(SET[6])`, and both buffers in canonical form. -/
def Obligations.EveryStepKeepsTheInvariant : Prop :=
  ∀ s t : State, s.Inv → step s = .next t → t.Inv

/-- R7: "Every command is total": from a state with the invariant no step stops. -/
def Obligations.EveryStepGivesANextState : Prop :=
  ∀ s : State, s.Inv → ∃ t, step s = .next t

/-- The model's own stop (log 5): a byte that `LAY` places outside the 17 bytes of `TLM` cannot be accessed, by any command
whose access `LAY` positions. A setter of a real stops so when its operand encodes (otherwise it ends with its operand's
fault). -/
def Obligations.AccessOutsideTheBufferStops : Prop :=
  ∀ (s : State) (idx : Byte) (w : Word) (bs : List Byte),
    let outside (a : Nat) : Result := .fault (.noSuchByte .tlm a)
    (∀ ies ∈ [(s.lay.bat, Instr.tgetBat, Instr.tsetBat w), (s.lay.cur, Instr.tgetCur, Instr.tsetCur w)],
      ies.1.en = true → 17 < ies.1.off + 2 → exec ies.2.1 s = outside ies.1.off ∧
        (float2Bytes Config.params w = .ok bs → exec ies.2.2 s = outside ies.1.off)) ∧
    (s.lay.temp.en = true → 17 < s.lay.temp.off + 1 →
      exec .tgetTemp s = outside s.lay.temp.off ∧ exec (.tsetTemp w) s = outside s.lay.temp.off) ∧
    (s.lay.rpm.en = true → 17 < s.lay.rpm.off + 2 →
      exec .tgetRpm s = outside s.lay.rpm.off ∧ exec (.tsetRpm w) s = outside s.lay.rpm.off) ∧
    (idx.toNat < 3 → s.lay.gps.en = true → 17 < axisOffset s.lay.gps idx.toNat + 3 →
      exec (.tgetGps idx) s = outside (axisOffset s.lay.gps idx.toNat) ∧
        (float3Bytes Config.params w = .ok bs → exec (.tsetGps idx w) s = outside (axisOffset s.lay.gps idx.toNat))) ∧
    (idx.toNat < 3 → idx.toNat < s.lay.alm.width → 17 < s.lay.alm.off + 1 →
      exec (.tgetAlm idx) s = outside s.lay.alm.off ∧ exec (.tsetAlm idx w) s = outside s.lay.alm.off) ∧
    (17 ≤ idx.toNat → idx.toNat < s.lay.size →
      exec (.trdb idx) s = outside idx.toNat ∧ exec (.twrb idx w) s = outside idx.toNat)

/-- R55: a command that ends gives one response, and does not touch what the host drives next. -/
def Obligations.EveryCommandRespondsOnce : Prop :=
  ∀ (i : Instr) (s t : State), exec i s = .next t → t.rsp.isSome = true ∧ t.inputs = s.inputs

/-- R143, R146: a command word that ends with a status other than OK changes no state, its response carries data 0, and the
next command word does what it would do after a `NOP`. -/
def Obligations.FaultsChangeNothing : Prop :=
  ∀ (w : CommandWord) (s t : State) (r : Response), execWord w s = .next t → t.rsp = some r → r.status ≠ .ok →
    t = s.respond ⟨r.status, 0#32⟩ ∧ ∀ w' : CommandWord, execWord w' t = execWord w' (s.respond ⟨.ok, 0#32⟩)

/-- R152: which commands can return which status. -/
def Obligations.StatusesFollowTheMatrix : Prop :=
  ∀ (i : Instr) (s t : State) (r : Response), exec i s = .next t → t.rsp = some r → mayReturn i r.status = true

/-- R33: what each command may write: `SET` only by the settings writers, `TLM` only by the telemetry writers, `LAY` only by
a write of `SET[6]`. -/
def Obligations.CommandsWriteOnlyTheirSpace : Prop :=
  ∀ (i : Instr) (s t : State), exec i s = .next t →
    (writesSet i = false → t.set = s.set) ∧ (writesTlm i = false → t.tlm = s.tlm) ∧
      (writesMask i = false → t.lay = s.lay)

/-- R35: a command that writes neither buffer leaves the state exactly as it found it but for its response. -/
def Obligations.ReadsHaveNoSideEffect : Prop :=
  ∀ (i : Instr) (s t : State), writesSet i = false → writesTlm i = false → exec i s = .next t →
    ∃ r, t = s.respond r

/-- R35: a command issued twice in a row leaves the same state as issued once. -/
def Obligations.RepeatedCommandsChangeNothingMore : Prop :=
  ∀ (i : Instr) (s t : State), s.Inv → exec i s = .next t → exec i t = .next t

/-- R19: no command reads an earlier response (or what the host drives next): with another response standing, it does the
same. -/
def Obligations.EarlierResponsesAreNotRead : Prop :=
  ∀ (i : Instr) (s t : State) (r : Option Response) (q : List PortInput), exec i s = .next t →
    exec i { s with rsp := r, inputs := q } = .next { t with inputs := q }

/-- R150: a run of the machine on a list of command words is the fold of the command step: every word gets its response,
and the machine's steps reach the fold's end state. -/
def Obligations.RunIsTheFoldOfCommands : Prop :=
  ∀ (ws : List CommandWord) (s : State), s.Inv →
    ∃ t rs, runWords ws s = some (t, rs) ∧ rs.length = ws.length ∧
      ∃ u : State, Sys2Proof.core.run ws.length (s.present ws) = .next u ∧ t.SameData u ∧ u.inputs = [] ∧
        (ws ≠ [] → u.rsp = rs.getLast?)

/-- R46, R140: the fields of the response word, and the codes of the five statuses. -/
def Obligations.ResponseWordFields : Prop :=
  (∀ r : Response, r.word.extractLsb' 32 4 = r.status.code ∧ r.word.extractLsb' 0 32 = r.rdata) ∧
    Status.ok.code = 0 ∧ Status.errOpcode.code = 1 ∧ Status.errIndex.code = 2 ∧ Status.errRange.code = 3 ∧
    Status.errNan.code = 4

/-- The canonical form (log 4): contents that read alike are equal data. -/
def Obligations.EqualReadsAreEqualContents : Prop :=
  ∀ (n : Nat) (m m' : Memory), m.wf n = true → m'.wf n = true → (∀ a, a < n → m.read a = m'.read a) → m = m'

/-! ### System and settings -/

/-- R138: `NOP` answers `(OK, 0)` and touches no state. -/
def Obligations.NopOnlyAnswers : Prop :=
  DecodesTo 0x00#8 (fun _ _ => .nop) ∧ ∀ s : State, exec .nop s = .next (s.respond ⟨.ok, 0#32⟩)

/-- R62, R64, R66, R68: the getters of byte 0. The reserved rate code 3 reads 1, and SRDB 0 still shows it. -/
def Obligations.GettersOfSettingsByteZero : Prop :=
  DecodesTo 0x10#8 (fun _ _ => .sgetDyn) ∧ DecodesTo 0x11#8 (fun _ _ => .sgetAck) ∧
  DecodesTo 0x12#8 (fun _ _ => .sgetAckp) ∧ DecodesTo 0x13#8 (fun _ _ => .sgetRate) ∧
  ∀ s : State,
    let b := (s.byte .set 0).toNat
    exec .sgetDyn s = .next (s.respond ⟨.ok, BitVec.ofNat 32 (b % 2)⟩) ∧
    exec .sgetAck s = .next (s.respond ⟨.ok, BitVec.ofNat 32 (b / 2 % 2)⟩) ∧
    exec .sgetAckp s = .next (s.respond ⟨.ok, BitVec.ofNat 32 (b / 4 % 2)⟩) ∧
    exec .sgetRate s = .next (s.respond ⟨.ok, if b / 8 % 4 = 3 then 1#32 else BitVec.ofNat 32 (b / 8 % 4)⟩) ∧
    exec (.srdb 0#8) s = .next (s.respond ⟨.ok, BitVec.ofNat 32 b⟩)

/-- R70, R72, R74, R76, R78, R80, R82: the getters of bytes 1 to 6. After any `SSET_PSZ` the payload clamp does nothing. -/
def Obligations.GettersOfSettingsBytesOneToSix : Prop :=
  DecodesTo 0x14#8 (fun _ _ => .sgetChan) ∧ DecodesTo 0x15#8 (fun _ _ => .sgetPsz) ∧
  DecodesTo 0x16#8 (fun _ _ => .sgetFreq) ∧ DecodesTo 0x17#8 (fun _ _ => .sgetRdly) ∧
  DecodesTo 0x18#8 (fun _ _ => .sgetNch) ∧ DecodesTo 0x19#8 (fun _ _ => .sgetChsz) ∧
  DecodesTo 0x1A#8 (fun _ _ => .sgetTmsk) ∧
  ∀ s : State,
    exec .sgetChan s = .next (s.respond ⟨.ok, BitVec.ofNat 32 (s.byte .set 1).toNat⟩) ∧
    exec .sgetPsz s = .next (s.respond ⟨.ok, BitVec.ofNat 32 (min (s.byte .set 2).toNat 32)⟩) ∧
    exec .sgetFreq s = .next (s.respond ⟨.ok, BitVec.ofNat 32 (s.byte .set 3).toNat⟩) ∧
    exec .sgetRdly s = .next (s.respond ⟨.ok, BitVec.ofNat 32 ((s.byte .set 4).toNat % 16)⟩) ∧
    exec .sgetNch s = .next (s.respond ⟨.ok, BitVec.ofNat 32 ((s.byte .set 5).toNat % 32 + 1)⟩) ∧
    exec .sgetChsz s = .next (s.respond ⟨.ok, BitVec.ofNat 32 ((s.byte .set 5).toNat / 32 + 1)⟩) ∧
    exec .sgetTmsk s = .next (s.respond ⟨.ok, BitVec.ofNat 32 (s.byte .set 6).toNat⟩) ∧
    ∀ (w : Word) (t : State), exec (.ssetPsz w) s = .next t →
      exec .sgetPsz t = .next (t.respond ⟨.ok, BitVec.ofNat 32 (t.byte .set 2).toNat⟩)

/-- R63, R65, R67, R69: the setters of byte 0 replace exactly their bits. A stored rate code 3 reads 1. -/
def Obligations.SettersOfSettingsByteZero : Prop :=
  DecodesTo 0x20#8 (fun _ w => .ssetDyn w) ∧ DecodesTo 0x21#8 (fun _ w => .ssetAck w) ∧
  DecodesTo 0x22#8 (fun _ w => .ssetAckp w) ∧ DecodesTo 0x23#8 (fun _ w => .ssetRate w) ∧
  ∀ (s : State) (w : Word),
    let b := s.byte .set 0
    (∃ t, exec (.ssetDyn w) s = .next t ∧ s.WroteSet t 0 (b.extractLsb' 1 7 ++ w.extractLsb' 0 1 : BitVec 8)) ∧
    (∃ t, exec (.ssetAck w) s = .next t ∧
      s.WroteSet t 0 (b.extractLsb' 2 6 ++ w.extractLsb' 0 1 ++ b.extractLsb' 0 1 : BitVec 8)) ∧
    (∃ t, exec (.ssetAckp w) s = .next t ∧
      s.WroteSet t 0 (b.extractLsb' 3 5 ++ w.extractLsb' 0 1 ++ b.extractLsb' 0 2 : BitVec 8)) ∧
    (∃ t, exec (.ssetRate w) s = .next t ∧
      s.WroteSet t 0 (b.extractLsb' 5 3 ++ w.extractLsb' 0 2 ++ b.extractLsb' 0 3 : BitVec 8) ∧
      (w.toNat % 4 = 3 → exec .sgetRate t = .next (t.respond ⟨.ok, 1#32⟩)))

/-- R71, R73, R75, R77: the setters of bytes 1 to 4. The payload clamp acts on the whole operand. -/
def Obligations.SettersOfSettingsBytesOneToFour : Prop :=
  DecodesTo 0x24#8 (fun _ w => .ssetChan w) ∧ DecodesTo 0x25#8 (fun _ w => .ssetPsz w) ∧
  DecodesTo 0x26#8 (fun _ w => .ssetFreq w) ∧ DecodesTo 0x27#8 (fun _ w => .ssetRdly w) ∧
  ∀ (s : State) (w : Word),
    (∃ t, exec (.ssetChan w) s = .next t ∧ s.WroteSet t 1 (w.extractLsb' 0 8)) ∧
    (∃ t, exec (.ssetPsz w) s = .next t ∧ s.WroteSet t 2 (BitVec.ofNat 8 (min w.toNat 32)) ∧
      exec .sgetPsz t = .next (t.respond ⟨.ok, BitVec.ofNat 32 (min w.toNat 32)⟩)) ∧
    (∃ t, exec (.ssetFreq w) s = .next t ∧ s.WroteSet t 3 (w.extractLsb' 0 8)) ∧
    (∃ t, exec (.ssetRdly w) s = .next t ∧
      s.WroteSet t 4 ((s.byte .set 4).extractLsb' 4 4 ++ w.extractLsb' 0 4 : BitVec 8))

/-- R79, R81, R83: the two minus-one setters, `s = (WDATA - 1) mod 2^32`, with what then reads back, and the telemetry bitmask,
which moves `LAY` in the same step, leaves `TLM` as it was, and whose bit 7 `Layout` ignores. -/
def Obligations.SettersOfSettingsBytesFiveAndSix : Prop :=
  DecodesTo 0x28#8 (fun _ w => .ssetNch w) ∧ DecodesTo 0x29#8 (fun _ w => .ssetChsz w) ∧
  DecodesTo 0x2A#8 (fun _ w => .ssetTmsk w) ∧
  ∀ (s : State) (w : Word),
    let v : Word := BitVec.ofInt 32 ((w.toNat : Int) - 1)
    let b := s.byte .set 5
    (∃ t, exec (.ssetNch w) s = .next t ∧ s.WroteSet t 5 (b.extractLsb' 5 3 ++ v.extractLsb' 0 5 : BitVec 8) ∧
      exec .sgetNch t = .next (t.respond ⟨.ok, BitVec.ofNat 32 (v.toNat % 32 + 1)⟩)) ∧
    (∃ t, exec (.ssetChsz w) s = .next t ∧ s.WroteSet t 5 (v.extractLsb' 0 3 ++ b.extractLsb' 0 5 : BitVec 8) ∧
      exec .sgetChsz t = .next (t.respond ⟨.ok, BitVec.ofNat 32 (v.toNat % 8 + 1)⟩)) ∧
    (∃ t, exec (.ssetTmsk w) s = .next t ∧ s.WroteSet t 6 (w.extractLsb' 0 8) ∧ t.lay = layout (w.extractLsb' 0 8) ∧
      t.lay = layout ((w.extractLsb' 0 7).setWidth 8) ∧ (s.Inv → w.extractLsb' 0 8 = s.byte .set 6 → s.SameData t))

/-- R61: for every settings field, the getter after the setter returns a legal value as it was written and any other value as
the setter's rule says, and the setter leaves every bit of `SET` outside the field's slice unchanged, and `TLM`. -/
def Obligations.SettingsReadBackWhatWasSet : Prop :=
  ∀ (f : Setting) (v : Word) (s : State), ∃ t,
    exec (settingSetter f v) s = .next t ∧
    exec (settingGetter f) t = .next (t.respond ⟨.ok, BitVec.ofNat 32 (settingReadBack f v.toNat)⟩) ∧
    (settingLegal f v.toNat → settingReadBack f v.toNat = v.toNat) ∧
    (∀ a k, ¬ (a = f.slot.byte ∧ f.slot.lo ≤ k ∧ k < f.slot.lo + f.slot.width) →
      (t.byte .set a).getLsbD k = (s.byte .set a).getLsbD k) ∧
    t.tlm = s.tlm

/-- R27 (b): "payload size never exceeds 32; retry delay never exceeds 15" of the values the getters return, in every
state. -/
def Obligations.ReportedSizesStayInBounds : Prop :=
  ∀ s : State,
    (∃ d : Word, exec .sgetPsz s = .next (s.respond ⟨.ok, d⟩) ∧ d.toNat ≤ 32) ∧
    (∃ d : Word, exec .sgetRdly s = .next (s.respond ⟨.ok, d⟩) ∧ d.toNat ≤ 15)

/-- R84, R85: raw settings access. -/
def Obligations.RawSettingsAccess : Prop :=
  DecodesTo 0x1F#8 (fun idx _ => .srdb idx) ∧ DecodesTo 0x2F#8 (fun idx w => .swrb idx w) ∧
  ∀ (s : State) (idx : Byte) (w : Word),
    (32 ≤ idx.toNat → exec (.srdb idx) s = .next (s.respond ⟨.errIndex, 0#32⟩) ∧
      exec (.swrb idx w) s = .next (s.respond ⟨.errIndex, 0#32⟩)) ∧
    (idx.toNat < 32 →
      exec (.srdb idx) s = .next (s.respond ⟨.ok, BitVec.ofNat 32 (s.byte .set idx.toNat).toNat⟩) ∧
      ∃ t, exec (.swrb idx w) s = .next t ∧ s.WroteSet t idx.toNat (w.extractLsb' 0 8)) ∧
    exec (.swrb 6#8 w) s = exec (.ssetTmsk w) s

/-- R54, R20: the 32 commands of `SLOAD` store the 32 bytes and lay the telemetry record out by byte 6; `SDUMP` then reads
them back. -/
def Obligations.SettingsImageLoadsAndDumps : Prop :=
  ∀ (bytes : List Byte) (s : State), (Pseudo.sload bytes).wellFormed = true →
    ∃ t, runCommands (expandPseudo (.sload bytes)) s = some (t, List.replicate 32 ⟨.ok, 0#32⟩) ∧
      (∀ i, (h : i < bytes.length) → t.byte .set i = bytes[i]) ∧ t.tlm = s.tlm ∧ t.lay = layout (t.byte .set 6) ∧
      ∃ u, runCommands (expandPseudo .sdump) t =
        some (u, bytes.map (fun b => (⟨.ok, BitVec.ofNat 32 b.toNat⟩ : Response))) ∧ t.SameData u

/-! ### The telemetry layout -/

/-- R88: the closed form of the layout, and that the alarm step never finds a free bit. The sizes of battery and current rest on
"the spec's inference" that they are Float2 (R121, R87; log 11). -/
def Obligations.LayoutClosedForm : Prop :=
  ∀ mask : Byte,
    let bit (k : Nat) : Nat := (mask.getLsbD k).toNat
    let base := 2 * bit 0 + 2 * bit 1 + bit 2 + 2 * bit 3 + 9 * bit 4
    let count := (mask.extractLsb' 5 2).toNat
    let entry (k off width : Nat) : LayEntry := if mask.getLsbD k then ⟨true, off, 0, width⟩ else ⟨false, 0, 0, 0⟩
    layout mask = {
      bat := entry 0 0 16
      cur := entry 1 (2 * bit 0) 16
      temp := entry 2 (2 * bit 0 + 2 * bit 1) 8
      rpm := entry 3 (2 * bit 0 + 2 * bit 1 + bit 2) 16
      gps := entry 4 (2 * bit 0 + 2 * bit 1 + bit 2 + 2 * bit 3) 72
      alm := if 0 < count then ⟨true, base, 0, count⟩ else ⟨false, 0, 0, 0⟩
      size := base + (if 0 < count then 1 else 0) } ∧
    (canonicalOrder.foldl (walkField mask) ⟨.empty, 0, 0⟩).free = 0

/-- R90: the layout's size does not shrink as mask bits are set, the alarm width is the selector, and the enabled fields are
disjoint and cover the record. -/
def Obligations.LayoutProperties : Prop :=
  (∀ m1 m2 : Byte, (∀ k, m1.getLsbD k = true → m2.getLsbD k = true) → (layout m1).size ≤ (layout m2).size) ∧
  (∀ m : Byte, (layout m).alm.width = (m.extractLsb' 5 2).toNat) ∧
  (∀ (m : Byte) (a : Nat),
    let covers (f : Field) : Prop :=
      let e := (layout m).entry f
      e.en = true ∧ e.off ≤ a ∧ a < e.off + (if f = .alm then 1 else e.width / 8)
    (∀ f g, covers f → covers g → f = g) ∧ ((∃ f, covers f) ↔ a < (layout m).size))

/-- R91, R92, R93: the layout queries. -/
def Obligations.LayoutQueries : Prop :=
  DecodesTo 0x50#8 (fun idx _ => .ten idx) ∧ DecodesTo 0x51#8 (fun idx _ => .toff idx) ∧
  DecodesTo 0x52#8 (fun _ _ => .tsize) ∧
  ∀ (s : State) (idx : Byte), s.Inv →
    (6 ≤ idx.toNat → exec (.ten idx) s = .next (s.respond ⟨.errIndex, 0#32⟩) ∧
      exec (.toff idx) s = .next (s.respond ⟨.errIndex, 0#32⟩)) ∧
    (idx.toNat < 5 → exec (.ten idx) s =
      .next (s.respond ⟨.ok, BitVec.ofNat 32 ((s.byte .set 6).getLsbD idx.toNat).toNat⟩)) ∧
    exec (.ten 5#8) s = .next (s.respond ⟨.ok, if (s.byte .set 6).extractLsb' 5 2 ≠ 0#2 then 1#32 else 0#32⟩) ∧
    (∀ f : Field, idx.toNat = fieldNumber f → ∃ d : Word, exec (.toff idx) s = .next (s.respond ⟨.ok, d⟩) ∧
      (d.extractLsb' 0 8).toNat = (s.lay.entry f).off ∧ (d.extractLsb' 8 8).toNat = (s.lay.entry f).bit ∧
      (d.extractLsb' 16 8).toNat = (s.lay.entry f).width ∧ d.getLsbD 24 = (s.lay.entry f).en ∧
      d.extractLsb' 25 7 = 0#7 ∧ ((s.lay.entry f).en = false → d = 0#32)) ∧
    (∃ d : Word, exec .tsize s = .next (s.respond ⟨.ok, d⟩) ∧ d.toNat = s.lay.size ∧ d.toNat ≤ 17)

/-- R162: a mask write moves the layout and leaves every byte of `TLM`, so writing the old mask back restores the state. -/
def Obligations.MaskChangeKeepsTelemetryBytes : Prop :=
  ∀ (s : State) (w : Word), s.Inv →
    ∃ t, exec (.ssetTmsk w) s = .next t ∧ t.tlm = s.tlm ∧ t.lay = layout (w.extractLsb' 0 8) ∧
      ∃ u, exec (.ssetTmsk ((s.byte .set 6).setWidth 32)) t = .next u ∧ s.SameData u

/-! ### Floats -/

/-- R13, whose tie rule is "the spec's choice" (PRESUMED, log 11): `roundHAZ(q) = floor(q + 1/2)` for `q >= 0` and
`-floor(-q + 1/2)` for `q < 0`. -/
def Obligations.RoundingIsHalfAwayFromZero : Prop :=
  ∀ q : Dyad, roundHAZ q = if 0 ≤ q.toRat then ⌊q.toRat + 1 / 2⌋ else -⌊-q.toRat + 1 / 2⌋

/-- R112: the number a binary32 word stands for. -/
def Obligations.Binary32WordsAreExact : Prop :=
  ∀ w : Word,
    let x := (w.extractLsb' 23 8).toNat
    let f := (w.extractLsb' 0 23).toNat
    let sign : ℚ := if w.getLsbD 31 then -1 else 1
    (x = 255 → f = 0 → b32ToReal w = .inf) ∧ (x = 255 → f ≠ 0 → b32ToReal w = .nan) ∧
    (x = 0 → ∃ y, b32ToReal w = .real y ∧ y.toRat = sign * f * (2 : ℚ) ^ (-149 : ℤ)) ∧
    (1 ≤ x → x ≤ 254 → ∃ y, b32ToReal w = .real y ∧ y.toRat = sign * (2 ^ 23 + f) * (2 : ℚ) ^ ((x : ℤ) - 150))

/-- R113, whose rounding the spec marks as general knowledge (log 11): a decoded value as a binary32 word is within half a
unit of 2^-149 of it, and exact whenever `q * 2^149` is an integer; a zero code gives `0x00000000`; below 2^-126 the stored
fraction is the integer nearest to `|q| * 2^149`, the even one at a tie. -/
def Obligations.DecodedValuesOnThePort : Prop :=
  ∀ (m : ℤ) (e : Nat), |m| ≤ 32768 → e ≤ 255 →
    let q : ℚ := (m : ℚ) / 2 ^ e
    let word := realToB32 ⟨m, e⟩
    let k : Nat := (word.extractLsb' 0 23).toNat
    (m = 0 → word = 0#32) ∧
    (m ≠ 0 → word.getLsbD 31 = decide (m < 0)) ∧
    (∃ y, b32ToReal word = .real y ∧ |y.toRat - q| ≤ (2 : ℚ) ^ (-150 : ℤ) ∧
      ((∃ z : ℤ, q * 2 ^ 149 = z) → y.toRat = q)) ∧
    (|q| < (2 : ℚ) ^ (-126 : ℤ) → word.extractLsb' 23 8 = 0#8 ∧ |(k : ℚ) - |q| * 2 ^ 149| ≤ 1 / 2 ∧
      (|(k : ℚ) - |q| * 2 ^ 149| = 1 / 2 → k % 2 = 0))

/-- R102: the encoder search, as its table says it: none when no candidate is in range; the smallest exponent (or under
LARGEST_FIT the largest in-range one) when some in-range exponent is exact; else the largest in-range one, rounded. The
in-range exponents are a prefix of the candidates, the exact ones a suffix. -/
def Obligations.SearchFollowsItsTable : Prop :=
  ∀ (x : Dyad) (cands : List Nat) (lo hi : ℤ), cands.Pairwise (· < ·) → lo ≤ 0 → 0 ≤ hi →
    (∀ e e', e ≤ e' → (inRange x lo hi e' → inRange x lo hi e) ∧ (exactAt x e → exactAt x e')) ∧
    ((∀ e ∈ cands, ¬ inRange x lo hi e) → ∀ p, search p x cands lo hi = none) ∧
    ((∃ e ∈ cands, inRange x lo hi e ∧ exactAt x e) →
      (∃ c, search .smallestExact x cands lo hi = some c ∧ c.e ∈ cands ∧ inRange x lo hi c.e ∧ exactAt x c.e ∧
        (c.m : ℚ) = x.toRat * 2 ^ c.e ∧ ∀ e ∈ cands, inRange x lo hi e → exactAt x e → c.e ≤ e) ∧
      (∃ c, search .largestFit x cands lo hi = some c ∧ c.e ∈ cands ∧ inRange x lo hi c.e ∧
        (c.m : ℚ) = x.toRat * 2 ^ c.e ∧ ∀ e ∈ cands, inRange x lo hi e → e ≤ c.e)) ∧
    ((∃ e ∈ cands, inRange x lo hi e) → (∀ e ∈ cands, inRange x lo hi e → ¬ exactAt x e) →
      ∃ c, (∀ p, search p x cands lo hi = some c) ∧ c.e ∈ cands ∧ inRange x lo hi c.e ∧
        c.m = roundHAZ (x.scale c.e) ∧ ∀ e ∈ cands, inRange x lo hi e → e ≤ c.e)

/-- R103: the decoded value does not depend on `EXP_POLICY`. -/
def Obligations.DecodedValueIgnoresThePolicy : Prop :=
  ∀ (x : Dyad) (cands : List Nat) (lo hi : ℤ) (p p' : ExpPolicy) (c : FloatCode), cands.Pairwise (· < ·) →
    lo ≤ 0 → 0 ≤ hi → search p x cands lo hi = some c →
      ∃ c', search p' x cands lo hi = some c' ∧ (decodeFloat c').toRat = (decodeFloat c).toRat

/-- R104, R106, R109: which numbers the encoders accept. -/
def Obligations.EncodersAcceptTheirRange : Prop :=
  ∀ (p : ExpPolicy) (x : Dyad),
    (enc3 p x = none ↔ (65535 / 2 : ℚ) ≤ x.toRat ∨ x.toRat ≤ -(65537 / 2 : ℚ)) ∧
    (enc2 p x = none ↔ (4095 / 2 : ℚ) ≤ |x.toRat|) ∧
    (∀ c, enc3 p x = some c → c.IsFloat3) ∧ (∀ c, enc2 p x = some c → c.IsFloat2 ∧ c.m ≠ -2048)

/-- R108 (a), (b): Float3 returns a representable number exactly, and any other at the largest in-range exponent, within half
a unit of it. -/
def Obligations.Float3RoundTrip : Prop :=
  ∀ (p : ExpPolicy) (x : Dyad) (c : FloatCode), enc3 p x = some c →
    let representable := ∃ e0 ≤ 255, ∃ k : ℤ, x.toRat * 2 ^ e0 = k ∧ -32768 ≤ k ∧ k ≤ 32767
    (representable → (decodeFloat c).toRat = x.toRat) ∧
    (¬ representable → (∀ e ≤ 255, inRange x (-32768) 32767 e → e ≤ c.e) ∧ c.m = roundHAZ (x.scale c.e) ∧
      |(decodeFloat c).toRat - x.toRat| ≤ 1 / 2 ^ (c.e + 1))

/-- R108 (c): the same of Float2, with even exponents 0..30 and bounds -2047..2047. -/
def Obligations.Float2RoundTrip : Prop :=
  ∀ (p : ExpPolicy) (x : Dyad) (c : FloatCode), enc2 p x = some c →
    let representable := ∃ e0 ≤ 15, ∃ k : ℤ, x.toRat * 4 ^ e0 = k ∧ -2047 ≤ k ∧ k ≤ 2047
    (representable → (decodeFloat c).toRat = x.toRat) ∧
    (¬ representable → (∀ e ∈ float2Exps, inRange x (-2047) 2047 e → e ≤ c.e) ∧ c.m = roundHAZ (x.scale c.e) ∧
      |(decodeFloat c).toRat - x.toRat| ≤ 1 / 2 ^ (c.e + 1))

/-- R108 (d), (e), (f): Float2 keeps an integer of -2047..2047 at exponent 0; a decoded value encodes again without loss;
Float2 is symmetric under negation. -/
def Obligations.FloatLaws : Prop :=
  (∀ n : ℤ, -2047 ≤ n → n ≤ 2047 → enc2 .smallestExact ⟨n, 0⟩ = some ⟨n, 0⟩) ∧
  enc2 .smallestExact ⟨13, 2⟩ = some ⟨13, 2⟩ ∧ pack2 ⟨13, 2⟩ = [0x10#8, 0x0D#8] ∧
  (∀ (p : ExpPolicy) (x : Dyad) (c : FloatCode), enc3 p x = some c →
    ∃ c', enc3 p (decodeFloat c) = some c' ∧ (decodeFloat c').toRat = (decodeFloat c).toRat) ∧
  (∀ (p : ExpPolicy) (x : Dyad) (c : FloatCode), enc2 p x = some c →
    ∃ c', enc2 p (decodeFloat c) = some c' ∧ (decodeFloat c').toRat = (decodeFloat c).toRat) ∧
  (∀ (p : ExpPolicy) (n : ℤ) (d : Nat), enc2 p ⟨-n, d⟩ = (enc2 p ⟨n, d⟩).map (fun c => ⟨-c.m, c.e⟩))

/-- R100, R101: packing and unpacking are inverse on all codes, and every byte triple and every byte pair is a code. -/
def Obligations.PackingIsInverse : Prop :=
  (∀ (o : F3Order) (c : FloatCode), c.IsFloat3 →
    ∃ b0 b1 b2, pack3 o c = [b0, b1, b2] ∧ unpack3 o b0 b1 b2 = c) ∧
  (∀ (o : F3Order) (b0 b1 b2 : Byte), (unpack3 o b0 b1 b2).IsFloat3 ∧ pack3 o (unpack3 o b0 b1 b2) = [b0, b1, b2]) ∧
  (∀ c : FloatCode, c.IsFloat2 → ∃ b0 b1, pack2 c = [b0, b1] ∧ unpack2 b0 b1 = c) ∧
  (∀ b0 b1 : Byte, (unpack2 b0 b1).IsFloat2 ∧ pack2 (unpack2 b0 b1) = [b0, b1])

/-- R114, R116: the encode commands. The bytes are those of EXP_POLICY = SMALLEST_EXACT and F3_ORDER = MANT_HI, MANT_LO, EXP, the
parameter values the model takes (DESIGN CHOICE, logs 6 and 7). -/
def Obligations.FloatEncodeCommands : Prop :=
  DecodesTo 0x60#8 (fun _ w => .f3enc w) ∧ DecodesTo 0x62#8 (fun _ w => .f2enc w) ∧
  ∀ (s : State) (w : Word),
    ((w.extractLsb' 23 8).toNat = 255 → exec (.f3enc w) s = .next (s.respond ⟨.errNan, 0#32⟩) ∧
      exec (.f2enc w) s = .next (s.respond ⟨.errNan, 0#32⟩)) ∧
    ((w.extractLsb' 23 8).toNat ≠ 255 → ∃ x, b32ToReal w = .real x ∧
      (((65535 / 2 : ℚ) ≤ x.toRat ∨ x.toRat ≤ -(65537 / 2 : ℚ)) →
        exec (.f3enc w) s = .next (s.respond ⟨.errRange, 0#32⟩)) ∧
      (-(65537 / 2 : ℚ) < x.toRat → x.toRat < (65535 / 2 : ℚ) → ∃ c b0 b1 b2, enc3 .smallestExact x = some c ∧
        pack3 .mantHiMantLoExp c = [b0, b1, b2] ∧
        exec (.f3enc w) s = .next (s.respond ⟨.ok, (0#8 ++ b0 ++ b1 ++ b2 : BitVec 32)⟩)) ∧
      ((4095 / 2 : ℚ) ≤ |x.toRat| → exec (.f2enc w) s = .next (s.respond ⟨.errRange, 0#32⟩)) ∧
      (|x.toRat| < (4095 / 2 : ℚ) → ∃ c b0 b1, enc2 .smallestExact x = some c ∧ pack2 c = [b0, b1] ∧
        exec (.f2enc w) s = .next (s.respond ⟨.ok, (0#16 ++ b0 ++ b1 : BitVec 32)⟩)))

/-- R115, R117: the decode commands, `F3DEC` at F3_ORDER = MANT_HI, MANT_LO, EXP (DESIGN CHOICE, log 7); every code is valid, the bits above the code are ignored, a Float2 code decodes exactly,
and mantissa -2048 decodes although no encoder gives it. -/
def Obligations.FloatDecodeCommands : Prop :=
  DecodesTo 0x61#8 (fun _ w => .f3dec w) ∧ DecodesTo 0x63#8 (fun _ w => .f2dec w) ∧
  ∀ (s : State) (w : Word),
    exec (.f3dec w) s =
      .next (s.respond ⟨.ok, realToB32 ⟨(w.extractLsb' 8 16).toInt, w.toNat % 256⟩⟩) ∧
    exec (.f2dec w) s =
      .next (s.respond ⟨.ok, realToB32 ⟨(w.extractLsb' 0 12).toInt, 2 * (w.toNat / 4096 % 16)⟩⟩) ∧
    (∃ y, b32ToReal (realToB32 ⟨(w.extractLsb' 0 12).toInt, 2 * (w.toNat / 4096 % 16)⟩) = .real y ∧
      y.toRat = ((w.extractLsb' 0 12).toInt : ℚ) / 4 ^ (w.toNat / 4096 % 16)) ∧
    exec (.f2dec 0x0800#32) s = .next (s.respond ⟨.ok, 0xC5000000#32⟩) ∧
    exec (.f2enc 0xC5000000#32) s = .next (s.respond ⟨.errRange, 0#32⟩)

/-! ### Telemetry data -/

/-- R122, R124: the getters of battery and current, which are Float2 by "the spec's inference" (R121, R87; log 11). The result is
exact for any two bytes. -/
def Obligations.BatteryAndCurrentGetters : Prop :=
  DecodesTo 0x30#8 (fun _ _ => .tgetBat) ∧ DecodesTo 0x31#8 (fun _ _ => .tgetCur) ∧
  ∀ s : State, s.Inv →
    (s.lay.bat.en = false → exec .tgetBat s = .next (s.respond ⟨.ok, 0#32⟩)) ∧
    (s.lay.bat.en = true → s.lay.bat.off = 0 ∧ exec .tgetBat s = .next (s.respond
      ⟨.ok, realToB32 (decodeFloat (unpack2 (s.byte .tlm s.lay.bat.off) (s.byte .tlm (s.lay.bat.off + 1))))⟩)) ∧
    (s.lay.cur.en = false → exec .tgetCur s = .next (s.respond ⟨.ok, 0#32⟩)) ∧
    (s.lay.cur.en = true → s.lay.cur.off = (if s.lay.bat.en then 2 else 0) ∧ exec .tgetCur s = .next (s.respond
      ⟨.ok, realToB32 (decodeFloat (unpack2 (s.byte .tlm s.lay.cur.off) (s.byte .tlm (s.lay.cur.off + 1))))⟩)) ∧
    ∀ b0 b1 : Byte, ∃ y, b32ToReal (realToB32 (decodeFloat (unpack2 b0 b1))) = .real y ∧
      y.toRat = (decodeFloat (unpack2 b0 b1)).toRat

/-- R126, R128: the integer getters sign-extend; rpm is big-endian. -/
def Obligations.TemperatureAndRpmGetters : Prop :=
  DecodesTo 0x32#8 (fun _ _ => .tgetTemp) ∧ DecodesTo 0x33#8 (fun _ _ => .tgetRpm) ∧
  ∀ s : State, s.Inv →
    (s.lay.temp.en = false → exec .tgetTemp s = .next (s.respond ⟨.ok, 0#32⟩)) ∧
    (s.lay.temp.en = true → exec .tgetTemp s = .next (s.respond
      ⟨.ok, BitVec.ofInt 32 (s.byte .tlm s.lay.temp.off).toInt⟩)) ∧
    (s.lay.rpm.en = false → exec .tgetRpm s = .next (s.respond ⟨.ok, 0#32⟩)) ∧
    (s.lay.rpm.en = true → exec .tgetRpm s = .next (s.respond ⟨.ok,
      BitVec.ofInt 32 (256 * (s.byte .tlm s.lay.rpm.off).toInt + (s.byte .tlm (s.lay.rpm.off + 1)).toNat)⟩))

/-- R130, R132: the indexed getters: index check, then enable check, then the axis' three bytes, in the order F3_ORDER =
MANT_HI, MANT_LO, EXP (DESIGN CHOICE, log 7), or the alarm's bit. -/
def Obligations.GpsAndAlarmGetters : Prop :=
  DecodesTo 0x34#8 (fun idx _ => .tgetGps idx) ∧ DecodesTo 0x35#8 (fun idx _ => .tgetAlm idx) ∧
  ∀ (s : State) (idx : Byte), s.Inv →
    (3 ≤ idx.toNat → exec (.tgetGps idx) s = .next (s.respond ⟨.errIndex, 0#32⟩) ∧
      exec (.tgetAlm idx) s = .next (s.respond ⟨.errIndex, 0#32⟩)) ∧
    (idx.toNat < 3 →
      (s.lay.gps.en = false → exec (.tgetGps idx) s = .next (s.respond ⟨.ok, 0#32⟩)) ∧
      (s.lay.gps.en = true →
        let o := s.lay.gps.off + 3 * idx.toNat
        exec (.tgetGps idx) s = .next (s.respond ⟨.ok, realToB32 (decodeFloat
          (unpack3 .mantHiMantLoExp (s.byte .tlm o) (s.byte .tlm (o + 1)) (s.byte .tlm (o + 2))))⟩)) ∧
      (s.lay.alm.width ≤ idx.toNat → exec (.tgetAlm idx) s = .next (s.respond ⟨.ok, 0#32⟩)) ∧
      (idx.toNat < s.lay.alm.width → s.lay.alm.bit = 0 ∧ exec (.tgetAlm idx) s = .next (s.respond ⟨.ok,
        BitVec.ofNat 32 ((s.byte .tlm s.lay.alm.off).toNat / 2 ^ idx.toNat % 2)⟩)))

/-- R123, R125: the setters of battery and current: a disabled channel does nothing whatever the operand; then ERR_NAN, then
ERR_RANGE, then the two bytes. The fields are Float2 by "the spec's inference" (R121; log 11) and the bytes those of
EXP_POLICY = SMALLEST_EXACT (DESIGN CHOICE, log 6). -/
def Obligations.BatteryAndCurrentSetters : Prop :=
  DecodesTo 0x40#8 (fun _ w => .tsetBat w) ∧ DecodesTo 0x41#8 (fun _ w => .tsetCur w) ∧
  ∀ (s : State) (w : Word), s.Inv → ∀ ie ∈ [(Instr.tsetBat w, s.lay.bat), (Instr.tsetCur w, s.lay.cur)],
    (ie.2.en = false → exec ie.1 s = .next (s.respond ⟨.ok, 0#32⟩)) ∧
    (ie.2.en = true → (w.extractLsb' 23 8).toNat = 255 → exec ie.1 s = .next (s.respond ⟨.errNan, 0#32⟩)) ∧
    (ie.2.en = true → (w.extractLsb' 23 8).toNat ≠ 255 → ∃ x, b32ToReal w = .real x ∧
      ((4095 / 2 : ℚ) ≤ |x.toRat| → exec ie.1 s = .next (s.respond ⟨.errRange, 0#32⟩)) ∧
      (|x.toRat| < (4095 / 2 : ℚ) → ∃ c t, enc2 .smallestExact x = some c ∧ exec ie.1 s = .next t ∧
        s.WroteTlm t ie.2.off (pack2 c)))

/-- R127, R129: the integer setters keep the low bits and never fault. -/
def Obligations.TemperatureAndRpmSetters : Prop :=
  DecodesTo 0x42#8 (fun _ w => .tsetTemp w) ∧ DecodesTo 0x43#8 (fun _ w => .tsetRpm w) ∧
  ∀ (s : State) (w : Word), s.Inv →
    (s.lay.temp.en = false → exec (.tsetTemp w) s = .next (s.respond ⟨.ok, 0#32⟩)) ∧
    (s.lay.temp.en = true → ∃ t, exec (.tsetTemp w) s = .next t ∧
      s.WroteTlm t s.lay.temp.off [w.extractLsb' 0 8] ∧
      exec .tgetTemp t = .next (t.respond ⟨.ok, (w.extractLsb' 0 8).signExtend 32⟩)) ∧
    (s.lay.rpm.en = false → exec (.tsetRpm w) s = .next (s.respond ⟨.ok, 0#32⟩)) ∧
    (s.lay.rpm.en = true → ∃ t, exec (.tsetRpm w) s = .next t ∧
      s.WroteTlm t s.lay.rpm.off [w.extractLsb' 8 8, w.extractLsb' 0 8] ∧
      exec .tgetRpm t = .next (t.respond ⟨.ok, (w.extractLsb' 0 16).signExtend 32⟩))

/-- R131: the gps setter: index, enable, ERR_NAN, ERR_RANGE, and then the three bytes of the axis, those of EXP_POLICY =
SMALLEST_EXACT and F3_ORDER = MANT_HI, MANT_LO, EXP (DESIGN CHOICE, logs 6 and 7). -/
def Obligations.GpsSetter : Prop :=
  DecodesTo 0x44#8 (fun idx w => .tsetGps idx w) ∧
  ∀ (s : State) (idx : Byte) (w : Word), s.Inv →
    (3 ≤ idx.toNat → exec (.tsetGps idx w) s = .next (s.respond ⟨.errIndex, 0#32⟩)) ∧
    (idx.toNat < 3 → s.lay.gps.en = false → exec (.tsetGps idx w) s = .next (s.respond ⟨.ok, 0#32⟩)) ∧
    (idx.toNat < 3 → s.lay.gps.en = true → (w.extractLsb' 23 8).toNat = 255 →
      exec (.tsetGps idx w) s = .next (s.respond ⟨.errNan, 0#32⟩)) ∧
    (idx.toNat < 3 → s.lay.gps.en = true → (w.extractLsb' 23 8).toNat ≠ 255 → ∃ x, b32ToReal w = .real x ∧
      (((65535 / 2 : ℚ) ≤ x.toRat ∨ x.toRat ≤ -(65537 / 2 : ℚ)) →
        exec (.tsetGps idx w) s = .next (s.respond ⟨.errRange, 0#32⟩)) ∧
      (-(65537 / 2 : ℚ) < x.toRat → x.toRat < (65535 / 2 : ℚ) → ∃ c t, enc3 .smallestExact x = some c ∧
        exec (.tsetGps idx w) s = .next t ∧
        s.WroteTlm t (s.lay.gps.off + 3 * idx.toNat) (pack3 .mantHiMantLoExp c)))

/-- R133: the alarm setter changes exactly one bit of `TLM`. -/
def Obligations.AlarmSetterChangesOneBit : Prop :=
  DecodesTo 0x45#8 (fun idx w => .tsetAlm idx w) ∧
  ∀ (s : State) (idx : Byte) (w : Word), s.Inv →
    (3 ≤ idx.toNat → exec (.tsetAlm idx w) s = .next (s.respond ⟨.errIndex, 0#32⟩)) ∧
    (idx.toNat < 3 → s.lay.alm.width ≤ idx.toNat → exec (.tsetAlm idx w) s = .next (s.respond ⟨.ok, 0#32⟩)) ∧
    (idx.toNat < 3 → idx.toNat < s.lay.alm.width → ∃ t, exec (.tsetAlm idx w) s = .next t ∧
      (t.byte .tlm s.lay.alm.off).getLsbD (s.lay.alm.bit + idx.toNat) = w.getLsbD 0 ∧
      (∀ a k, ¬ (a = s.lay.alm.off ∧ k = s.lay.alm.bit + idx.toNat) →
        (t.byte .tlm a).getLsbD k = (s.byte .tlm a).getLsbD k) ∧
      t.set = s.set ∧ t.lay = s.lay ∧ t.inputs = s.inputs ∧ t.rsp = some ⟨.ok, 0#32⟩)

/-- R134, R135: raw telemetry access, bounded by the record's length. -/
def Obligations.RawTelemetryAccess : Prop :=
  DecodesTo 0x3F#8 (fun idx _ => .trdb idx) ∧ DecodesTo 0x4F#8 (fun idx w => .twrb idx w) ∧
  ∀ (s : State) (idx : Byte) (w : Word), s.Inv →
    (s.lay.size ≤ idx.toNat → exec (.trdb idx) s = .next (s.respond ⟨.errIndex, 0#32⟩) ∧
      exec (.twrb idx w) s = .next (s.respond ⟨.errIndex, 0#32⟩)) ∧
    (idx.toNat < s.lay.size →
      exec (.trdb idx) s = .next (s.respond ⟨.ok, BitVec.ofNat 32 (s.byte .tlm idx.toNat).toNat⟩) ∧
      ∃ t, exec (.twrb idx w) s = .next t ∧ s.WroteTlm t idx.toNat [w.extractLsb' 0 8])

/-- R136: `TCLR` clears all 17 bytes whatever the mask, and every field then reads 0. -/
def Obligations.ClearZeroesTheWholeBuffer : Prop :=
  DecodesTo 0x4E#8 (fun _ _ => .tclr) ∧
  ∀ s : State, s.Inv → ∃ t, exec .tclr s = .next t ∧ (∀ a, t.byte .tlm a = 0x00#8) ∧ t.set = s.set ∧ t.lay = s.lay ∧
    t.inputs = s.inputs ∧ t.rsp = some ⟨.ok, 0#32⟩ ∧
    ∀ i ∈ [Instr.tgetBat, .tgetCur, .tgetTemp, .tgetRpm, .tgetGps 0#8, .tgetGps 1#8, .tgetGps 2#8, .tgetAlm 0#8,
      .tgetAlm 1#8, .tgetAlm 2#8], exec i t = .next (t.respond ⟨.ok, 0#32⟩)

/-- R103 on the machine: a stored real reads back as the same word under either `EXP_POLICY`, for battery and current alike
and for every gps axis. -/
def Obligations.StoredRealsReadBackAlikeUnderBothPolicies : Prop :=
  ∀ (o : F3Order) (s : State) (w : Word), s.Inv →
    (∀ e ∈ [s.lay.bat, s.lay.cur], ∀ t, s.writeFloat2 ⟨.smallestExact, o⟩ e w = .next t →
      ∃ t' r, s.writeFloat2 ⟨.largestFit, o⟩ e w = .next t' ∧
        t.readFloat2 e = .next (t.respond r) ∧ t'.readFloat2 e = .next (t'.respond r)) ∧
    (∀ axis, axis < 3 → ∀ t, s.writeFloat3 ⟨.smallestExact, o⟩ s.lay.gps axis w = .next t →
      ∃ t' r, s.writeFloat3 ⟨.largestFit, o⟩ s.lay.gps axis w = .next t' ∧
        t.readFloat3 ⟨.smallestExact, o⟩ s.lay.gps axis = .next (t.respond r) ∧
        t'.readFloat3 ⟨.largestFit, o⟩ s.lay.gps axis = .next (t'.respond r))
end

