-- ==== Sys2Proof/Laws/Decode.lean ====
section
/-! SUPPORT. The fields of a packed command word, and what decoding is once the opcode's row is known. -/

namespace Sys2Proof

@[simp] theorem opField_packCommand (op idx : Byte) (w : Word) : opField (packCommand op idx w) = op := by
  apply BitVec.eq_of_getLsbD_eq
  intro i hi
  simp only [opField, packCommand, BitVec.getLsbD_extractLsb', BitVec.getLsbD_append, hi, decide_true, Bool.true_and]
  rw [if_neg (by omega), if_neg (by omega)]
  congr 1
  omega

@[simp] theorem idxField_packCommand (op idx : Byte) (w : Word) : idxField (packCommand op idx w) = idx := by
  apply BitVec.eq_of_getLsbD_eq
  intro i hi
  simp only [idxField, packCommand, BitVec.getLsbD_extractLsb', BitVec.getLsbD_append, hi, decide_true, Bool.true_and]
  rw [if_neg (by omega), if_pos (by omega)]
  congr 1
  omega

@[simp] theorem wdataField_packCommand (op idx : Byte) (w : Word) : wdataField (packCommand op idx w) = w := by
  apply BitVec.eq_of_getLsbD_eq
  intro i hi
  simp only [wdataField, packCommand, BitVec.getLsbD_extractLsb', BitVec.getLsbD_append, hi, decide_true, Bool.true_and,
    Nat.zero_add, if_true]

/-- Decoding a word whose opcode has a row. -/
theorem decode_of_row {w : CommandWord} {r : OpRow} (h : opRow? (opField w) = some r) :
    decode w = .ok (r.build (idxField w) (wdataField w)) := by
  simp [decode, h]

/-- Decoding a word whose opcode has none. -/
theorem decode_of_no_row {w : CommandWord} (h : opRow? (opField w) = none) :
    decode w = .error (.undefinedOpcode (opField w)) := by
  simp [decode, h]

end Sys2Proof
end

