-- ==== Sys2Proof/Laws/Memory.lean ====
section
/-! SUPPORT. The laws of the byte spaces: a read after a write, a write elsewhere, and that every write keeps the canonical
form. Later proofs cite these and never unfold `Memory.write`. -/

namespace Sys2Proof.Machine

@[simp] theorem Memory.read_nil (a : Nat) : Memory.read [] a = 0#8 := rfl

@[simp] theorem Memory.read_cons (c : Host.Cell) (m : Memory) (a : Nat) :
    Memory.read (c :: m) a = if c.1 = a then c.2 else Memory.read m a := rfl

theorem Memory.read_drop_same (m : Memory) (a : Nat) : (Memory.drop m a).read a = 0#8 := by
  induction m with
  | nil => rfl
  | cons c rest ih =>
    by_cases h : c.1 = a <;> simp_all [Memory.drop]

theorem Memory.read_drop_other (m : Memory) {a b : Nat} (h : b ≠ a) : (Memory.drop m a).read b = m.read b := by
  induction m with
  | nil => rfl
  | cons c rest ih =>
    by_cases hc : c.1 = a
    · have : ¬ c.1 = b := fun e => h (e ▸ hc)
      simp_all [Memory.drop]
    · simp_all [Memory.drop]

theorem Memory.not_mem_drop (m : Memory) (a : Nat) : ∀ c ∈ Memory.drop m a, c.1 ≠ a := by
  intro c hc
  simpa using (List.mem_filter.mp hc).2

theorem Memory.read_insert_same (m : Memory) (a : Nat) (v : Byte) (h : ∀ c ∈ m, c.1 ≠ a) :
    (Memory.insert m a v).read a = v := by
  induction m with
  | nil => simp [Memory.insert]
  | cons c rest ih =>
    by_cases hc : c.1 < a
    · have := h c (by simp)
      simp_all [Memory.insert]
    · simp [Memory.insert, hc]

theorem Memory.read_insert_other (m : Memory) {a b : Nat} (v : Byte) (h : b ≠ a) :
    (Memory.insert m a v).read b = m.read b := by
  induction m with
  | nil => simp [Memory.insert, Ne.symm h]
  | cons c rest ih =>
    by_cases hc : c.1 < a
    · simp [Memory.insert, hc, ih]
    · simp [Memory.insert, hc, Ne.symm h]

/-- A read after a write to the same index gives the value written. -/
@[simp] theorem Memory.read_write_same (m : Memory) (a : Nat) (v : Byte) : (m.write a v).read a = v := by
  by_cases hv : v = 0#8
  · simp [Memory.write, hv, Memory.read_drop_same]
  · simp [Memory.write, hv, Memory.read_insert_same _ _ _ (Memory.not_mem_drop m a)]

/-- A write leaves every other index as it was. -/
theorem Memory.read_write_other (m : Memory) {a b : Nat} (v : Byte) (h : b ≠ a) : (m.write a v).read b = m.read b := by
  by_cases hv : v = 0#8
  · simp [Memory.write, hv, Memory.read_drop_other m h]
  · simp [Memory.write, hv, Memory.read_insert_other _ _ h, Memory.read_drop_other m h]

theorem Memory.wfFrom_mono {n lo lo' : Nat} {m : Memory} (h : Memory.wfFrom n lo m = true) (hl : lo' ≤ lo) :
    Memory.wfFrom n lo' m = true := by
  cases m with
  | nil => rfl
  | cons c rest =>
    simp only [Memory.wfFrom, Bool.and_eq_true, decide_eq_true_eq] at h ⊢
    exact ⟨⟨⟨le_trans hl h.1.1.1, h.1.1.2⟩, h.1.2⟩, h.2⟩

theorem Memory.wfFrom_drop {n lo : Nat} {m : Memory} (a : Nat) (h : Memory.wfFrom n lo m = true) :
    Memory.wfFrom n lo (Memory.drop m a) = true := by
  induction m generalizing lo with
  | nil => rfl
  | cons c rest ih =>
    simp only [Memory.wfFrom, Bool.and_eq_true, decide_eq_true_eq] at h
    obtain ⟨⟨⟨h1, h2⟩, h3⟩, h4⟩ := h
    have hrest := ih h4
    by_cases hc : c.1 = a
    · have : Memory.drop (c :: rest) a = Memory.drop rest a := by simp [Memory.drop, hc]
      exact this ▸ Memory.wfFrom_mono hrest (by omega)
    · have : Memory.drop (c :: rest) a = c :: Memory.drop rest a := by simp [Memory.drop, hc]
      simp [this, Memory.wfFrom, h1, h2, h3, hrest]

theorem Memory.wfFrom_insert {n lo a : Nat} {v : Byte} {m : Memory} (h : Memory.wfFrom n lo m = true) (hlo : lo ≤ a)
    (han : a < n) (hv : v ≠ 0#8) (hne : ∀ c ∈ m, c.1 ≠ a) : Memory.wfFrom n lo (Memory.insert m a v) = true := by
  induction m generalizing lo with
  | nil => simp [Memory.insert, Memory.wfFrom, hlo, han, hv]
  | cons c rest ih =>
    have hca := hne c (by simp)
    simp only [Memory.wfFrom, Bool.and_eq_true, decide_eq_true_eq] at h
    obtain ⟨⟨⟨h1, h2⟩, h3⟩, h4⟩ := h
    by_cases hc : c.1 < a
    · have hrest := ih h4 (by omega) (fun d hd => hne d (by simp [hd]))
      simp [Memory.insert, hc, Memory.wfFrom, h1, h2, h3, hrest]
    · have : a + 1 ≤ c.1 := by omega
      simp [Memory.insert, hc, Memory.wfFrom, hlo, han, hv, h2, h3, h4, this]

/-- A write inside the space keeps the canonical form. -/
theorem Memory.wf_write {n : Nat} {m : Memory} {a : Nat} (v : Byte) (h : m.wf n = true) (ha : a < n) :
    (m.write a v).wf n = true := by
  by_cases hv : v = 0#8
  · rw [Memory.write, if_pos hv]
    exact Memory.wfFrom_drop a h
  · rw [Memory.write, if_neg hv]
    exact Memory.wfFrom_insert (Memory.wfFrom_drop a h) (Nat.zero_le a) ha hv (Memory.not_mem_drop m a)

/-- A write of several bytes leaves every index outside them as it was. -/
theorem Memory.read_writeList_other (m : Memory) (a b : Nat) (bs : List Byte) (h : b < a ∨ a + bs.length ≤ b) :
    (m.writeList a bs).read b = m.read b := by
  induction bs generalizing m a with
  | nil => rfl
  | cons v rest ih =>
    simp only [List.length_cons] at h
    rw [Memory.writeList, ih _ _ (by omega), Memory.read_write_other _ _ (by omega)]

/-- A write of several bytes puts the `i`-th byte at the `i`-th index. -/
theorem Memory.read_writeList_mem (m : Memory) (a i : Nat) (bs : List Byte) (h : i < bs.length) :
    (m.writeList a bs).read (a + i) = bs[i] := by
  induction bs generalizing m a i with
  | nil => simp at h
  | cons v rest ih =>
    cases i with
    | zero =>
      rw [Memory.writeList, Memory.read_writeList_other _ _ _ _ (by omega)]
      simp
    | succ j =>
      have := ih (m.write a v) (a + 1) j (by simpa using h)
      simpa [Memory.writeList, Nat.add_assoc, Nat.add_comm 1 j] using this

/-- A write of several bytes inside the space keeps the canonical form. -/
theorem Memory.wf_writeList {n : Nat} {m : Memory} {a : Nat} (bs : List Byte) (h : m.wf n = true)
    (ha : a + bs.length ≤ n) : (m.writeList a bs).wf n = true := by
  induction bs generalizing m a with
  | nil => exact h
  | cons v rest ih =>
    simp only [List.length_cons] at ha
    exact ih (Memory.wf_write v h (by omega)) (by omega)

end Sys2Proof.Machine
end

