-- ==== Sys2Proof/Laws/State.lean ====
section
/-! SUPPORT. One lemma per field per update of State, and what each update does to a read of one byte. -/

namespace Sys2Proof.Machine

variable (s : State)

@[simp] theorem State.mem_set : s.mem .set = s.set := rfl
@[simp] theorem State.mem_tlm : s.mem .tlm = s.tlm := rfl

@[simp] theorem State.respond_set (r : Response) : (s.respond r).set = s.set := rfl
@[simp] theorem State.respond_tlm (r : Response) : (s.respond r).tlm = s.tlm := rfl
@[simp] theorem State.respond_lay (r : Response) : (s.respond r).lay = s.lay := rfl
@[simp] theorem State.respond_rsp (r : Response) : (s.respond r).rsp = some r := rfl
@[simp] theorem State.respond_inputs (r : Response) : (s.respond r).inputs = s.inputs := rfl
@[simp] theorem State.respond_byte (r : Response) (sp : Space) (a : Nat) : (s.respond r).byte sp a = s.byte sp a := by
  cases sp <;> rfl
@[simp] theorem State.respond_respond (r r' : Response) : (s.respond r).respond r' = s.respond r' := rfl

@[simp] theorem State.writeSet_set (a : Nat) (v : Byte) : (s.writeSet a v).set = s.set.write a v := rfl
@[simp] theorem State.writeSet_tlm (a : Nat) (v : Byte) : (s.writeSet a v).tlm = s.tlm := rfl
@[simp] theorem State.writeSet_lay (a : Nat) (v : Byte) :
    (s.writeSet a v).lay = if a = 6 then layout v else s.lay := rfl
@[simp] theorem State.writeSet_rsp (a : Nat) (v : Byte) : (s.writeSet a v).rsp = s.rsp := rfl
@[simp] theorem State.writeSet_inputs (a : Nat) (v : Byte) : (s.writeSet a v).inputs = s.inputs := rfl
@[simp] theorem State.writeSet_byte_tlm (a b : Nat) (v : Byte) : (s.writeSet a v).byte .tlm b = s.byte .tlm b := rfl
@[simp] theorem State.writeSet_byte_same (a : Nat) (v : Byte) : (s.writeSet a v).byte .set a = v :=
  Memory.read_write_same _ _ _
theorem State.writeSet_byte_other {a b : Nat} (v : Byte) (h : b ≠ a) :
    (s.writeSet a v).byte .set b = s.byte .set b :=
  Memory.read_write_other _ _ h

@[simp] theorem State.writeTlm_set (a : Nat) (bs : List Byte) : (s.writeTlm a bs).set = s.set := rfl
@[simp] theorem State.writeTlm_tlm (a : Nat) (bs : List Byte) : (s.writeTlm a bs).tlm = s.tlm.writeList a bs := rfl
@[simp] theorem State.writeTlm_lay (a : Nat) (bs : List Byte) : (s.writeTlm a bs).lay = s.lay := rfl
@[simp] theorem State.writeTlm_rsp (a : Nat) (bs : List Byte) : (s.writeTlm a bs).rsp = s.rsp := rfl
@[simp] theorem State.writeTlm_inputs (a : Nat) (bs : List Byte) : (s.writeTlm a bs).inputs = s.inputs := rfl
@[simp] theorem State.writeTlm_byte_set (a b : Nat) (bs : List Byte) :
    (s.writeTlm a bs).byte .set b = s.byte .set b := rfl
theorem State.writeTlm_byte_other (a b : Nat) (bs : List Byte) (h : b < a ∨ a + bs.length ≤ b) :
    (s.writeTlm a bs).byte .tlm b = s.byte .tlm b :=
  Memory.read_writeList_other _ _ _ _ h
theorem State.writeTlm_byte_mem (a i : Nat) (bs : List Byte) (h : i < bs.length) :
    (s.writeTlm a bs).byte .tlm (a + i) = bs[i] :=
  Memory.read_writeList_mem _ _ _ _ h

@[simp] theorem State.begin_set : s.begin.set = s.set := rfl
@[simp] theorem State.begin_tlm : s.begin.tlm = s.tlm := rfl
@[simp] theorem State.begin_lay : s.begin.lay = s.lay := rfl
@[simp] theorem State.begin_rsp : s.begin.rsp = none := rfl
@[simp] theorem State.begin_inputs : s.begin.inputs = s.inputs.tail := rfl
@[simp] theorem State.begin_byte (sp : Space) (a : Nat) : s.begin.byte sp a = s.byte sp a := by cases sp <;> rfl

@[simp] theorem State.resetByPort_set : s.resetByPort.set = [] := rfl
@[simp] theorem State.resetByPort_tlm : s.resetByPort.tlm = [] := rfl
@[simp] theorem State.resetByPort_lay : s.resetByPort.lay = .empty := rfl
@[simp] theorem State.resetByPort_rsp : s.resetByPort.rsp = none := rfl
@[simp] theorem State.resetByPort_inputs : s.resetByPort.inputs = s.inputs := rfl

@[simp] theorem State.present_set (ws : List CommandWord) : (s.present ws).set = s.set := rfl
@[simp] theorem State.present_tlm (ws : List CommandWord) : (s.present ws).tlm = s.tlm := rfl
@[simp] theorem State.present_lay (ws : List CommandWord) : (s.present ws).lay = s.lay := rfl
@[simp] theorem State.present_rsp (ws : List CommandWord) : (s.present ws).rsp = s.rsp := rfl
@[simp] theorem State.present_inputs (ws : List CommandWord) : (s.present ws).inputs = ws.map presentCommand := rfl

@[simp] theorem State.withFetchWord_set (n w : Nat) : (s.withFetchWord n w).set = s.set := rfl
@[simp] theorem State.withFetchWord_tlm (n w : Nat) : (s.withFetchWord n w).tlm = s.tlm := rfl
@[simp] theorem State.withFetchWord_lay (n w : Nat) : (s.withFetchWord n w).lay = s.lay := rfl
@[simp] theorem State.withFetchWord_rsp (n w : Nat) : (s.withFetchWord n w).rsp = s.rsp := rfl
@[simp] theorem State.withFetchWord_inputs (n w : Nat) :
    (s.withFetchWord n w).inputs = presentCommand (BitVec.ofNat 48 (w % 2 ^ n)) :: s.inputs.tail := rfl

@[simp] theorem State.reset_byte (sp : Space) (a : Nat) : State.reset.byte sp a = 0#8 := by cases sp <;> rfl

/-- The canonical form of both buffers holds at reset. -/
theorem State.reset_wf :
    State.reset.set.wf Space.set.size = true ∧ State.reset.tlm.wf Space.tlm.size = true := ⟨rfl, rfl⟩

end Sys2Proof.Machine
end

