-- ==== Sys2Proof/Laws/Layout.lean ====
section
/-! SUPPORT. What the layout function can answer, said once: where a field lies, for every mask. -/

namespace Sys2Proof.Machine

/-- How many bytes a field takes (R86): 2, 2, 1, 2, 9, and one for the alarms. -/
def fieldBytes : Field → Nat
  | .bat | .cur | .rpm => 2
  | .temp | .alm => 1
  | .gps => 9

/-- The record never exceeds the buffer. -/
theorem layout_size_le (m : Byte) : (layout m).size ≤ 17 := by
  revert m
  decide +kernel

/-- An enabled field lies inside the record. -/
theorem layout_entry_fits (m : Byte) (f : Field) (h : ((layout m).entry f).en = true) :
    ((layout m).entry f).off + fieldBytes f ≤ (layout m).size := by
  revert m
  cases f <;> decide +kernel

/-- The alarm entry: enabled exactly when an alarm exists, at most three, from bit 0. -/
theorem layout_alm (m : Byte) :
    (layout m).alm.bit = 0 ∧ (layout m).alm.width ≤ 3 ∧ ((layout m).alm.en = true ↔ 0 < (layout m).alm.width) := by
  revert m
  decide +kernel

variable {s : State}

/-- In a state with the invariant an enabled field lies inside `TLM`. -/
theorem State.Inv.entry_fits (h : s.lay = layout (s.byte .set 6)) (f : Field) (hen : (s.lay.entry f).en = true) :
    (s.lay.entry f).off + fieldBytes f ≤ 17 := by
  rw [h] at hen ⊢
  exact le_trans (layout_entry_fits _ f hen) (layout_size_le _)

end Sys2Proof.Machine
end

