-- ==== Sys2Proof/Laws/Ops.lean ====
section
/-! SUPPORT. One lemma per shared operation that says everything it can do, and what each writing operation does to the
invariant. Proofs cite these instead of unfolding the operations. -/

namespace Sys2Proof.Machine

variable {s t : State}

@[simp] theorem State.answer_eq_next (d : Word) : s.answer d = .next t ↔ t = s.respond ⟨.ok, d⟩ := by
  simp [State.answer, eq_comm]

@[simp] theorem State.raise_eq_next (c : Status) : s.raise c = .next t ↔ t = s.respond ⟨c, 0#32⟩ := by
  simp [State.raise, eq_comm]

theorem State.answer_def (d : Word) : s.answer d = .next (s.respond ⟨.ok, d⟩) := rfl

theorem State.raise_def (c : Status) : s.raise c = .next (s.respond ⟨c, 0#32⟩) := rfl

/-- An access goes on exactly when its bytes are in the space. -/
theorem Space.within_eq_next {sp : Space} {a n : Nat} {k : Result} :
    sp.within a n k = .next t ↔ a + n ≤ sp.size ∧ k = .next t := by
  unfold Space.within
  split <;> simp_all

/-- An access inside the space is what follows it. -/
theorem Space.within_of_le {sp : Space} {a n : Nat} {k : Result} (h : a + n ≤ sp.size) : sp.within a n k = k := by
  simp [Space.within, h]

/-- An access that reaches outside the space is the model's own fault (log 5). -/
theorem Space.within_of_lt {sp : Space} {a n : Nat} {k : Result} (h : sp.size < a + n) :
    sp.within a n k = .fault (.noSuchByte sp a) := by
  rw [Space.within, if_neg (by omega)]

/-- What a getter of a channel can do: answer 0 when disabled, answer the value when enabled and in the buffer. -/
theorem State.readChannel_eq_next {en : Bool} {a n : Nat} {v : Word} :
    s.readChannel en a n v = .next t ↔
      (en = false ∧ t = s.respond ⟨.ok, 0#32⟩) ∨ (en = true ∧ a + n ≤ 17 ∧ t = s.respond ⟨.ok, v⟩) := by
  cases en <;> simp [State.readChannel, Space.within_eq_next, Space.size, Config.tlmSize]

/-- What a setter of a channel can do: answer 0 when disabled, raise the operand's fault, or store its bytes. -/
theorem State.writeChannel_eq_next {en : Bool} {a : Nat} {operand : Except Status (List Byte)} :
    s.writeChannel en a operand = .next t ↔
      (en = false ∧ t = s.respond ⟨.ok, 0#32⟩) ∨
      (∃ c, en = true ∧ operand = .error c ∧ t = s.respond ⟨c, 0#32⟩) ∨
      (∃ bs, en = true ∧ operand = .ok bs ∧ a + bs.length ≤ 17 ∧ t = (s.writeTlm a bs).respond ⟨.ok, 0#32⟩) := by
  cases en <;> cases operand <;>
    simp [State.writeChannel, Space.within_eq_next, Space.size, Config.tlmSize]

/-- What a layout query can do. -/
theorem State.query_eq_next {idx : Byte} {value : LayEntry → Word} :
    s.query idx value = .next t ↔
      (fieldOf? idx = none ∧ t = s.respond ⟨.errIndex, 0#32⟩) ∨
      (∃ f, fieldOf? idx = some f ∧ t = s.respond ⟨.ok, value (s.lay.entry f)⟩) := by
  unfold State.query
  cases fieldOf? idx <;> simp

/-- What an encode command can do. -/
theorem State.answerBytes_eq_next {operand : Except Status (List Byte)} :
    s.answerBytes operand = .next t ↔
      (∃ c, operand = .error c ∧ t = s.respond ⟨c, 0#32⟩) ∨
      (∃ bs, operand = .ok bs ∧ t = s.respond ⟨.ok, bytesWord bs⟩) := by
  cases operand <;> simp [State.answerBytes]

/-- What the operand check of an encoder can answer. -/
theorem encodeOperand_eq_error {enc : Dyad → Option FloatCode} {w : Word} {c : Status}
    (h : encodeOperand enc w = .error c) : c = .errNan ∨ c = .errRange := by
  unfold encodeOperand at h
  split at h
  · left; simpa [eq_comm] using h
  · left; simpa [eq_comm] using h
  · split at h
    · right; simpa [eq_comm] using h
    · cases h

theorem encodeOperand_eq_ok {enc : Dyad → Option FloatCode} {w : Word} {c : FloatCode}
    (h : encodeOperand enc w = .ok c) : ∃ x, b32ToReal w = .real x ∧ enc x = some c := by
  unfold encodeOperand at h
  split at h
  · cases h
  · cases h
  · rename_i x hx
    split at h
    · cases h
    · rename_i c' hc'
      exact ⟨x, hx, by simpa using (Except.ok.inj h) ▸ hc'⟩

/-- A stored Float2 operand is two bytes, or one of the two operand faults. -/
theorem float2Bytes_cases (p : Params) (w : Word) :
    (∃ c, float2Bytes p w = .error c ∧ (c = .errNan ∨ c = .errRange)) ∨ ∃ b0 b1, float2Bytes p w = .ok [b0, b1] := by
  unfold float2Bytes
  cases h : encodeOperand (enc2 p.expPolicy) w with
  | error c => exact .inl ⟨c, rfl, encodeOperand_eq_error h⟩
  | ok c => exact .inr ⟨_, _, rfl⟩

/-- A stored Float3 operand is three bytes, or one of the two operand faults. -/
theorem float3Bytes_cases (p : Params) (w : Word) :
    (∃ c, float3Bytes p w = .error c ∧ (c = .errNan ∨ c = .errRange)) ∨
      ∃ b0 b1 b2, float3Bytes p w = .ok [b0, b1, b2] := by
  unfold float3Bytes
  cases h : encodeOperand (enc3 p.expPolicy) w with
  | error c => exact .inl ⟨c, rfl, encodeOperand_eq_error h⟩
  | ok c =>
    right
    cases p.f3Order <;> exact ⟨_, _, _, rfl⟩

/-- What a settings setter does: it writes its field's byte. -/
theorem State.putSetting_eq (f : Setting) (v : Word) :
    s.putSetting f v = s.writeSet f.slot.byte (f.slot.insert (s.byte .set f.slot.byte) v) := rfl

/-- Every settings field lies in one of the bytes 0..6, and inside the byte (R20). -/
theorem Setting.slot_fits (f : Setting) : f.slot.byte ≤ 6 ∧ f.slot.lo + f.slot.width ≤ 8 := by
  cases f <;> decide

/-- A bit of a byte after a slot's bits were replaced. -/
theorem Slot.getLsbD_insert (p : Slot) (old : Byte) (v : Word) (k : Nat) (hk : k < 8) :
    (p.insert old v).getLsbD k =
      if p.lo ≤ k ∧ k < p.lo + p.width then v.getLsbD (k - p.lo) else old.getLsbD k := by
  have hmask : p.mask.getLsbD k = decide (p.lo ≤ k ∧ k < p.lo + p.width) := by
    simp only [Slot.mask, BitVec.getLsbD_ofNat, hk, decide_true, Bool.true_and]
    rw [Nat.testBit_mul_two_pow, Nat.testBit_two_pow_sub_one, ← Bool.decide_and]
    congr 1
    apply propext
    omega
  rw [BitVec.getLsbD_eq_getElem hk] at hmask
  by_cases h : p.lo ≤ k ∧ k < p.lo + p.width
  · have : ¬ k < p.lo := by omega
    simp [Slot.insert, hmask, hk, h, this]
  · simp [Slot.insert, hmask, hk, h]

/-- What one step can do: reset, idle, or a command word on the state with the input taken. -/
theorem step_cases (s : State) :
    (s.event = .idle ∧ step s = .next s.begin) ∨ (s.event = .reset ∧ step s = .next s.begin.resetByPort) ∨
      ∃ w, s.event = .command w ∧ step s = execWord w s.begin := by
  unfold step
  cases h : s.event with
  | idle => simp
  | reset => simp
  | command w => simp

/-- What one command word can do: a command's meaning, or ERR_OPCODE. -/
theorem execWord_cases (w : CommandWord) (s : State) :
    (∃ i, decode w = .ok i ∧ execWord w s = exec i s) ∨
      (∃ e, decode w = .error e ∧ execWord w s = .next (s.respond ⟨.errOpcode, 0#32⟩)) := by
  unfold execWord
  cases decode w with
  | ok i => exact .inl ⟨i, rfl, rfl⟩
  | error e => exact .inr ⟨e, rfl, rfl⟩

/-- A response does not touch the invariant. -/
theorem State.Inv.respond (h : s.Inv) (r : Response) : (s.respond r).Inv := by
  simpa [State.Inv] using h

/-- Taking the input does not touch the invariant. -/
theorem State.Inv.begin (h : s.Inv) : s.begin.Inv := by
  simpa [State.Inv] using h

/-- A write of `SET` keeps the invariant, because `LAY` follows it. -/
theorem State.Inv.writeSet (h : s.Inv) (a : Nat) (v : Byte) (ha : a < 32) : (s.writeSet a v).Inv := by
  refine ⟨Memory.wf_write v h.1 ha, h.2.1, ?_⟩
  by_cases h6 : a = 6
  · subst h6; simp
  · simpa [h6, State.writeSet_byte_other s v (Ne.symm h6)] using h.2.2

/-- A write of `TLM` inside the buffer keeps the invariant. -/
theorem State.Inv.writeTlm (h : s.Inv) (a : Nat) (bs : List Byte) (ha : a + bs.length ≤ 17) :
    (s.writeTlm a bs).Inv :=
  ⟨h.1, Memory.wf_writeList bs h.2.1 ha, by simpa using h.2.2⟩

end Sys2Proof.Machine
end

