-- ==== Sys2Proof/Laws/PerInstr.lean ====
section
/-! SUPPORT. Statements made once per command. -/

namespace Sys2Proof.Laws

/-- The opcode table has a row under the command's opcode, of the command's format, and the row makes the command from its
operand fields (spec 30_encoding.md R47, R48). -/
def TableRow.Statement (i : Instr) : Prop :=
  ∃ r, opRow? i.op = some r ∧ r.format = i.format ∧ r.build i.idx i.wdata = i

theorem TableRow.nop : TableRow.Statement .nop := ⟨_, rfl, rfl, rfl⟩
theorem TableRow.sgetDyn : TableRow.Statement .sgetDyn := ⟨_, rfl, rfl, rfl⟩
theorem TableRow.sgetAck : TableRow.Statement .sgetAck := ⟨_, rfl, rfl, rfl⟩
theorem TableRow.sgetAckp : TableRow.Statement .sgetAckp := ⟨_, rfl, rfl, rfl⟩
theorem TableRow.sgetRate : TableRow.Statement .sgetRate := ⟨_, rfl, rfl, rfl⟩
theorem TableRow.sgetChan : TableRow.Statement .sgetChan := ⟨_, rfl, rfl, rfl⟩
theorem TableRow.sgetPsz : TableRow.Statement .sgetPsz := ⟨_, rfl, rfl, rfl⟩
theorem TableRow.sgetFreq : TableRow.Statement .sgetFreq := ⟨_, rfl, rfl, rfl⟩
theorem TableRow.sgetRdly : TableRow.Statement .sgetRdly := ⟨_, rfl, rfl, rfl⟩
theorem TableRow.sgetNch : TableRow.Statement .sgetNch := ⟨_, rfl, rfl, rfl⟩
theorem TableRow.sgetChsz : TableRow.Statement .sgetChsz := ⟨_, rfl, rfl, rfl⟩
theorem TableRow.sgetTmsk : TableRow.Statement .sgetTmsk := ⟨_, rfl, rfl, rfl⟩
theorem TableRow.srdb (idx : Byte) : TableRow.Statement (.srdb idx) := ⟨_, rfl, rfl, rfl⟩
theorem TableRow.ssetDyn (wdata : Word) : TableRow.Statement (.ssetDyn wdata) := ⟨_, rfl, rfl, rfl⟩
theorem TableRow.ssetAck (wdata : Word) : TableRow.Statement (.ssetAck wdata) := ⟨_, rfl, rfl, rfl⟩
theorem TableRow.ssetAckp (wdata : Word) : TableRow.Statement (.ssetAckp wdata) := ⟨_, rfl, rfl, rfl⟩
theorem TableRow.ssetRate (wdata : Word) : TableRow.Statement (.ssetRate wdata) := ⟨_, rfl, rfl, rfl⟩
theorem TableRow.ssetChan (wdata : Word) : TableRow.Statement (.ssetChan wdata) := ⟨_, rfl, rfl, rfl⟩
theorem TableRow.ssetPsz (wdata : Word) : TableRow.Statement (.ssetPsz wdata) := ⟨_, rfl, rfl, rfl⟩
theorem TableRow.ssetFreq (wdata : Word) : TableRow.Statement (.ssetFreq wdata) := ⟨_, rfl, rfl, rfl⟩
theorem TableRow.ssetRdly (wdata : Word) : TableRow.Statement (.ssetRdly wdata) := ⟨_, rfl, rfl, rfl⟩
theorem TableRow.ssetNch (wdata : Word) : TableRow.Statement (.ssetNch wdata) := ⟨_, rfl, rfl, rfl⟩
theorem TableRow.ssetChsz (wdata : Word) : TableRow.Statement (.ssetChsz wdata) := ⟨_, rfl, rfl, rfl⟩
theorem TableRow.ssetTmsk (wdata : Word) : TableRow.Statement (.ssetTmsk wdata) := ⟨_, rfl, rfl, rfl⟩
theorem TableRow.swrb (idx : Byte) (wdata : Word) : TableRow.Statement (.swrb idx wdata) := ⟨_, rfl, rfl, rfl⟩
theorem TableRow.tgetBat : TableRow.Statement .tgetBat := ⟨_, rfl, rfl, rfl⟩
theorem TableRow.tgetCur : TableRow.Statement .tgetCur := ⟨_, rfl, rfl, rfl⟩
theorem TableRow.tgetTemp : TableRow.Statement .tgetTemp := ⟨_, rfl, rfl, rfl⟩
theorem TableRow.tgetRpm : TableRow.Statement .tgetRpm := ⟨_, rfl, rfl, rfl⟩
theorem TableRow.tgetGps (idx : Byte) : TableRow.Statement (.tgetGps idx) := ⟨_, rfl, rfl, rfl⟩
theorem TableRow.tgetAlm (idx : Byte) : TableRow.Statement (.tgetAlm idx) := ⟨_, rfl, rfl, rfl⟩
theorem TableRow.trdb (idx : Byte) : TableRow.Statement (.trdb idx) := ⟨_, rfl, rfl, rfl⟩
theorem TableRow.tsetBat (wdata : Word) : TableRow.Statement (.tsetBat wdata) := ⟨_, rfl, rfl, rfl⟩
theorem TableRow.tsetCur (wdata : Word) : TableRow.Statement (.tsetCur wdata) := ⟨_, rfl, rfl, rfl⟩
theorem TableRow.tsetTemp (wdata : Word) : TableRow.Statement (.tsetTemp wdata) := ⟨_, rfl, rfl, rfl⟩
theorem TableRow.tsetRpm (wdata : Word) : TableRow.Statement (.tsetRpm wdata) := ⟨_, rfl, rfl, rfl⟩
theorem TableRow.tsetGps (idx : Byte) (wdata : Word) : TableRow.Statement (.tsetGps idx wdata) := ⟨_, rfl, rfl, rfl⟩
theorem TableRow.tsetAlm (idx : Byte) (wdata : Word) : TableRow.Statement (.tsetAlm idx wdata) := ⟨_, rfl, rfl, rfl⟩
theorem TableRow.tclr : TableRow.Statement .tclr := ⟨_, rfl, rfl, rfl⟩
theorem TableRow.twrb (idx : Byte) (wdata : Word) : TableRow.Statement (.twrb idx wdata) := ⟨_, rfl, rfl, rfl⟩
theorem TableRow.ten (idx : Byte) : TableRow.Statement (.ten idx) := ⟨_, rfl, rfl, rfl⟩
theorem TableRow.toff (idx : Byte) : TableRow.Statement (.toff idx) := ⟨_, rfl, rfl, rfl⟩
theorem TableRow.tsize : TableRow.Statement .tsize := ⟨_, rfl, rfl, rfl⟩
theorem TableRow.f3enc (wdata : Word) : TableRow.Statement (.f3enc wdata) := ⟨_, rfl, rfl, rfl⟩
theorem TableRow.f3dec (wdata : Word) : TableRow.Statement (.f3dec wdata) := ⟨_, rfl, rfl, rfl⟩
theorem TableRow.f2enc (wdata : Word) : TableRow.Statement (.f2enc wdata) := ⟨_, rfl, rfl, rfl⟩
theorem TableRow.f2dec (wdata : Word) : TableRow.Statement (.f2dec wdata) := ⟨_, rfl, rfl, rfl⟩

end Sys2Proof.Laws
end

