-- ==== Sys2Proof/Tests/Slice0.lean ====
section
/-! SUPPORT. The model's own tests: the ill-formed terms the checks refuse, one decoded word per command written out from the
encoding of spec/30_encoding.md R45 and R48, at most two one-step tests per command from the vectors of spec/95_test_vectors.md
(each test's name ends in its vector's id), the assembler, and, for each statement with hypotheses, a state and operands that
meet them (`witness_<Name>`). -/

namespace Sys2Proof.Tests

open Sys2Proof Sys2Proof.Machine

/-- The reset state with some bytes of `SET` and of `TLM` changed; `LAY` follows `SET[6]`. -/
def holding (set tlm : List Host.Cell) : State :=
  let s := set.foldl (fun s c => s.writeSet c.1 c.2) State.reset
  tlm.foldl (fun s c => s.writeTlm c.1 [c.2]) s

/-- Whether a step that runs the word `w` on `s` gives `t` and the response. -/
def answers (w : CommandWord) (s t : State) (status : Status) (data : Word) : Bool :=
  match step (s.withFetchWord 48 w.toNat) with
  | .next u => decide (u = t.respond ⟨status, data⟩)
  | .fault _ => false
  | .refused _ => false

/-- Whether an outcome is a fault for a byte that does not exist. -/
def stopsAt (r : Result) (sp : Space) (a : Nat) : Bool :=
  match r with
  | .fault f => decide (f = .noSuchByte sp a)
  | .next _ => false
  | .refused _ => false

/-! ### Well-formedness -/

theorem test_index_256_is_refused : (IdxOperand.number 256).wellFormed = false ∧ (IdxOperand.number 255).wellFormed = true := by
  decide

theorem test_sload_of_31_bytes_is_refused :
    (Pseudo.sload (List.replicate 31 0#8)).wellFormed = false ∧ (Pseudo.sload (List.replicate 33 0#8)).wellFormed = false := by
  decide

theorem test_tload_of_257_bytes_is_refused : (Pseudo.tload (List.replicate 257 0#8)).wellFormed = false := by
  decide +kernel

theorem test_tdump_of_257_is_refused : (Pseudo.tdump 257).wellFormed = false ∧ (Pseudo.tdump 256).wellFormed = true := by
  decide

/-! ### Decoding: words written out from R45 and R48, opcode, index, data -/

theorem test_decode_system_and_settings_reads :
    decode 0x00A5C0500001#48 = .ok .nop ∧
    decode 0x10A5C0500001#48 = .ok .sgetDyn ∧
    decode 0x11A5C0500001#48 = .ok .sgetAck ∧
    decode 0x12A5C0500001#48 = .ok .sgetAckp ∧
    decode 0x13A5C0500001#48 = .ok .sgetRate ∧
    decode 0x14A5C0500001#48 = .ok .sgetChan ∧
    decode 0x15A5C0500001#48 = .ok .sgetPsz ∧
    decode 0x16A5C0500001#48 = .ok .sgetFreq ∧
    decode 0x17A5C0500001#48 = .ok .sgetRdly ∧
    decode 0x18A5C0500001#48 = .ok .sgetNch ∧
    decode 0x19A5C0500001#48 = .ok .sgetChsz ∧
    decode 0x1AA5C0500001#48 = .ok .sgetTmsk ∧
    decode 0x1FA5C0500001#48 = .ok (.srdb 0xA5#8) := by
  decide

theorem test_decode_settings_writes :
    decode 0x20A5C0500001#48 = .ok (.ssetDyn 0xC0500001#32) ∧
    decode 0x21A5C0500001#48 = .ok (.ssetAck 0xC0500001#32) ∧
    decode 0x22A5C0500001#48 = .ok (.ssetAckp 0xC0500001#32) ∧
    decode 0x23A5C0500001#48 = .ok (.ssetRate 0xC0500001#32) ∧
    decode 0x24A5C0500001#48 = .ok (.ssetChan 0xC0500001#32) ∧
    decode 0x25A5C0500001#48 = .ok (.ssetPsz 0xC0500001#32) ∧
    decode 0x26A5C0500001#48 = .ok (.ssetFreq 0xC0500001#32) ∧
    decode 0x27A5C0500001#48 = .ok (.ssetRdly 0xC0500001#32) ∧
    decode 0x28A5C0500001#48 = .ok (.ssetNch 0xC0500001#32) ∧
    decode 0x29A5C0500001#48 = .ok (.ssetChsz 0xC0500001#32) ∧
    decode 0x2AA5C0500001#48 = .ok (.ssetTmsk 0xC0500001#32) ∧
    decode 0x2FA5C0500001#48 = .ok (.swrb 0xA5#8 0xC0500001#32) := by
  decide

theorem test_decode_telemetry_reads :
    decode 0x30A5C0500001#48 = .ok .tgetBat ∧
    decode 0x31A5C0500001#48 = .ok .tgetCur ∧
    decode 0x32A5C0500001#48 = .ok .tgetTemp ∧
    decode 0x33A5C0500001#48 = .ok .tgetRpm ∧
    decode 0x34A5C0500001#48 = .ok (.tgetGps 0xA5#8) ∧
    decode 0x35A5C0500001#48 = .ok (.tgetAlm 0xA5#8) ∧
    decode 0x3FA5C0500001#48 = .ok (.trdb 0xA5#8) := by
  decide

theorem test_decode_telemetry_writes :
    decode 0x40A5C0500001#48 = .ok (.tsetBat 0xC0500001#32) ∧
    decode 0x41A5C0500001#48 = .ok (.tsetCur 0xC0500001#32) ∧
    decode 0x42A5C0500001#48 = .ok (.tsetTemp 0xC0500001#32) ∧
    decode 0x43A5C0500001#48 = .ok (.tsetRpm 0xC0500001#32) ∧
    decode 0x44A5C0500001#48 = .ok (.tsetGps 0xA5#8 0xC0500001#32) ∧
    decode 0x45A5C0500001#48 = .ok (.tsetAlm 0xA5#8 0xC0500001#32) ∧
    decode 0x4EA5C0500001#48 = .ok .tclr ∧
    decode 0x4FA5C0500001#48 = .ok (.twrb 0xA5#8 0xC0500001#32) := by
  decide

theorem test_decode_layout_and_floats :
    decode 0x50A5C0500001#48 = .ok (.ten 0xA5#8) ∧
    decode 0x51A5C0500001#48 = .ok (.toff 0xA5#8) ∧
    decode 0x52A5C0500001#48 = .ok .tsize ∧
    decode 0x60A5C0500001#48 = .ok (.f3enc 0xC0500001#32) ∧
    decode 0x61A5C0500001#48 = .ok (.f3dec 0xC0500001#32) ∧
    decode 0x62A5C0500001#48 = .ok (.f2enc 0xC0500001#32) ∧
    decode 0x63A5C0500001#48 = .ok (.f2dec 0xC0500001#32) := by
  decide

/-- Every opcode next to a defined range has no command (R50). -/
theorem test_undefined_opcodes :
    ∀ op ∈ [0x01#8, 0x0F#8, 0x1B#8, 0x1E#8, 0x2B#8, 0x2E#8, 0x36#8, 0x3E#8, 0x46#8, 0x4D#8, 0x53#8, 0x5F#8, 0x64#8, 0xFF#8],
      (decode (packCommand op 0xFF#8 0xFFFFFFFF#32)).toOption = none := by
  decide

/-- `TEN ALM` in the numbering of the opcode table (R45: `OP` is bits 47..40). -/
theorem test_table_word : decodeTableWord 48 0x500500000000 = some (.ten 5#8) ∧ decodeTableWord 48 0x01FF00000000 = none := by
  decide

/-! ### One step per test -/

/-- VJ12. -/
theorem test_nop_VJ12 :
    answers 0x00FF12345678#48 (holding [(6, 0x3F#8)] [(0, 0x01#8)]) (holding [(6, 0x3F#8)] [(0, 0x01#8)]) .ok 0x00000000#32 = true := by decide
/-- VA14. -/
theorem test_sgetDyn_VA14 :
    answers 0x100000000000#48 (holding [(0, 0x05#8)] []) (holding [(0, 0x05#8)] []) .ok 0x00000001#32 = true := by decide
/-- VA15. -/
theorem test_sgetAck_VA15 :
    answers 0x110000000000#48 (holding [(0, 0x05#8)] []) (holding [(0, 0x05#8)] []) .ok 0x00000000#32 = true := by decide
/-- VA16. -/
theorem test_sgetAckp_VA16 :
    answers 0x120000000000#48 (holding [(0, 0x05#8)] []) (holding [(0, 0x05#8)] []) .ok 0x00000001#32 = true := by decide
/-- VA11. -/
theorem test_sgetRate_VA11 :
    answers 0x130000000000#48 (holding [(0, 0x18#8)] []) (holding [(0, 0x18#8)] []) .ok 0x00000001#32 = true := by decide
/-- VA12. -/
theorem test_sgetRate_VA12 :
    answers 0x130000000000#48 (holding [(0, 0x10#8)] []) (holding [(0, 0x10#8)] []) .ok 0x00000002#32 = true := by decide
/-- VA20. -/
theorem test_sgetChan_VA20 :
    answers 0x140000000000#48 (holding [(1, 0xC8#8)] []) (holding [(1, 0xC8#8)] []) .ok 0x000000C8#32 = true := by decide
/-- VA27. -/
theorem test_sgetPsz_VA27 :
    answers 0x150000000000#48 (holding [(2, 0x20#8)] []) (holding [(2, 0x20#8)] []) .ok 0x00000020#32 = true := by decide
/-- VA28. -/
theorem test_sgetPsz_VA28 :
    answers 0x150000000000#48 (holding [(2, 0xFF#8)] []) (holding [(2, 0xFF#8)] []) .ok 0x00000020#32 = true := by decide
/-- VA33. -/
theorem test_sgetFreq_VA33 :
    answers 0x160000000000#48 (holding [(3, 0xFF#8)] []) (holding [(3, 0xFF#8)] []) .ok 0x000000FF#32 = true := by decide
/-- VA38. -/
theorem test_sgetRdly_VA38 :
    answers 0x170000000000#48 (holding [(4, 0xF5#8)] []) (holding [(4, 0xF5#8)] []) .ok 0x00000005#32 = true := by decide
/-- VA44. -/
theorem test_sgetNch_VA44 :
    answers 0x180000000000#48 (holding [(5, 0xFF#8)] []) (holding [(5, 0xFF#8)] []) .ok 0x00000020#32 = true := by decide
/-- VL9. -/
theorem test_sgetNch_VL9 :
    answers 0x180000000000#48 State.reset State.reset .ok 0x00000001#32 = true := by decide
/-- VA51. -/
theorem test_sgetChsz_VA51 :
    answers 0x190000000000#48 (holding [(5, 0xE7#8)] []) (holding [(5, 0xE7#8)] []) .ok 0x00000008#32 = true := by decide
/-- VA55. -/
theorem test_sgetTmsk_VA55 :
    answers 0x1A0000000000#48 (holding [(6, 0xFF#8)] []) (holding [(6, 0xFF#8)] []) .ok 0x000000FF#32 = true := by decide
/-- VA64. -/
theorem test_sgetTmsk_VA64 :
    answers 0x1AFFDEADBEEF#48 (holding [(6, 0x3F#8)] []) (holding [(6, 0x3F#8)] []) .ok 0x0000003F#32 = true := by decide
/-- VA57. -/
theorem test_srdb_VA57 :
    answers 0x1F1F00000000#48 (holding [(31, 0xA5#8)] []) (holding [(31, 0xA5#8)] []) .ok 0x000000A5#32 = true := by decide
/-- VA58. -/
theorem test_srdb_VA58 :
    answers 0x1F2000000000#48 State.reset State.reset .errIndex 0x00000000#32 = true := by decide
/-- VA2. -/
theorem test_ssetDyn_VA2 :
    answers 0x200000000000#48 (holding [(0, 0xFF#8)] []) (holding [(0, 0xFE#8)] []) .ok 0x00000000#32 = true := by decide
/-- VA3. -/
theorem test_ssetDyn_VA3 :
    answers 0x200000000002#48 State.reset State.reset .ok 0x00000000#32 = true := by decide
/-- VA5. -/
theorem test_ssetAck_VA5 :
    answers 0x210000000001#48 (holding [(0, 0xE0#8)] []) (holding [(0, 0xE2#8)] []) .ok 0x00000000#32 = true := by decide
/-- VA6. -/
theorem test_ssetAckp_VA6 :
    answers 0x220000000000#48 (holding [(0, 0xFF#8)] []) (holding [(0, 0xFB#8)] []) .ok 0x00000000#32 = true := by decide
/-- VA8. -/
theorem test_ssetRate_VA8 :
    answers 0x230000000000#48 (holding [(0, 0xFF#8)] []) (holding [(0, 0xE7#8)] []) .ok 0x00000000#32 = true := by decide
/-- VA9. -/
theorem test_ssetRate_VA9 :
    answers 0x230000000003#48 State.reset (holding [(0, 0x18#8)] []) .ok 0x00000000#32 = true := by decide
/-- VA19. -/
theorem test_ssetChan_VA19 :
    answers 0x240000000180#48 State.reset (holding [(1, 0x80#8)] []) .ok 0x00000000#32 = true := by decide
/-- VA24. -/
theorem test_ssetPsz_VA24 :
    answers 0x250000000021#48 State.reset (holding [(2, 0x20#8)] []) .ok 0x00000000#32 = true := by decide
/-- VA25. -/
theorem test_ssetPsz_VA25 :
    answers 0x250000000100#48 State.reset (holding [(2, 0x20#8)] []) .ok 0x00000000#32 = true := by decide
/-- VA32. -/
theorem test_ssetFreq_VA32 :
    answers 0x26000000013C#48 State.reset (holding [(3, 0x3C#8)] []) .ok 0x00000000#32 = true := by decide
/-- VA34. -/
theorem test_ssetRdly_VA34 :
    answers 0x270000000005#48 (holding [(4, 0xF0#8)] []) (holding [(4, 0xF5#8)] []) .ok 0x00000000#32 = true := by decide
/-- VA42. -/
theorem test_ssetNch_VA42 :
    answers 0x280000000000#48 State.reset (holding [(5, 0x1F#8)] []) .ok 0x00000000#32 = true := by decide
/-- VA40. -/
theorem test_ssetNch_VA40 :
    answers 0x280000000008#48 State.reset (holding [(5, 0x07#8)] []) .ok 0x00000000#32 = true := by decide
/-- VA47. -/
theorem test_ssetChsz_VA47 :
    answers 0x290000000002#48 (holding [(5, 0x07#8)] []) (holding [(5, 0x27#8)] []) .ok 0x00000000#32 = true := by decide
/-- VA49. -/
theorem test_ssetChsz_VA49 :
    answers 0x290000000000#48 State.reset (holding [(5, 0xE0#8)] []) .ok 0x00000000#32 = true := by decide
/-- VA53. -/
theorem test_ssetTmsk_VA53 :
    answers 0x2A000000017F#48 State.reset (holding [(6, 0x7F#8)] []) .ok 0x00000000#32 = true := by decide
/-- VA54. -/
theorem test_ssetTmsk_VA54 :
    answers 0x2A00000000FF#48 State.reset (holding [(6, 0xFF#8)] []) .ok 0x00000000#32 = true := by decide
/-- VA61. -/
theorem test_swrb_VA61 :
    answers 0x2F1F000001A5#48 State.reset (holding [(31, 0xA5#8)] []) .ok 0x00000000#32 = true := by decide
/-- VA63. -/
theorem test_swrb_VA63 :
    answers 0x2F20000000AA#48 State.reset State.reset .errIndex 0x00000000#32 = true := by decide
/-- VE2. -/
theorem test_tgetBat_VE2 :
    answers 0x300000000000#48 (holding [(6, 0x3F#8)] [(0, 0x10#8), (1, 0x32#8)]) (holding [(6, 0x3F#8)] [(0, 0x10#8), (1, 0x32#8)]) .ok 0x41480000#32 = true := by decide
/-- VE3. -/
theorem test_tgetBat_VE3 :
    answers 0x300000000000#48 (holding [(6, 0x3E#8)] [(0, 0x10#8), (1, 0x32#8)]) (holding [(6, 0x3E#8)] [(0, 0x10#8), (1, 0x32#8)]) .ok 0x00000000#32 = true := by decide
/-- VE7. -/
theorem test_tgetCur_VE7 :
    answers 0x310000000000#48 (holding [(6, 0x3F#8)] [(2, 0x47#8), (3, 0x66#8)]) (holding [(6, 0x3F#8)] [(2, 0x47#8), (3, 0x66#8)]) .ok 0x40ECC000#32 = true := by decide
/-- VE13. -/
theorem test_tgetTemp_VE13 :
    answers 0x320000000000#48 (holding [(6, 0x3F#8)] [(4, 0x80#8)]) (holding [(6, 0x3F#8)] [(4, 0x80#8)]) .ok 0xFFFFFF80#32 = true := by decide
/-- VE22. -/
theorem test_tgetRpm_VE22 :
    answers 0x330000000000#48 (holding [(6, 0x0C#8)] [(1, 0xFF#8), (2, 0xFE#8)]) (holding [(6, 0x0C#8)] [(1, 0xFF#8), (2, 0xFE#8)]) .ok 0xFFFFFFFE#32 = true := by decide
/-- VE27. -/
theorem test_tgetGps_VE27 :
    answers 0x340100000000#48 (holding [(6, 0x3F#8)] [(10, 0xFF#8), (11, 0xF3#8), (12, 0x02#8)]) (holding [(6, 0x3F#8)] [(10, 0xFF#8), (11, 0xF3#8), (12, 0x02#8)]) .ok 0xC0500000#32 = true := by decide
/-- VE30. -/
theorem test_tgetGps_VE30 :
    answers 0x340300000000#48 (holding [(6, 0x0F#8)] []) (holding [(6, 0x0F#8)] []) .errIndex 0x00000000#32 = true := by decide
/-- VH3. -/
theorem test_tgetAlm_VH3 :
    answers 0x350200000000#48 (holding [(6, 0x7F#8)] [(16, 0x05#8)]) (holding [(6, 0x7F#8)] [(16, 0x05#8)]) .ok 0x00000001#32 = true := by decide
/-- VH4. -/
theorem test_tgetAlm_VH4 :
    answers 0x350200000000#48 (holding [(6, 0x3F#8)] [(16, 0x05#8)]) (holding [(6, 0x3F#8)] [(16, 0x05#8)]) .ok 0x00000000#32 = true := by decide
/-- VJ2. -/
theorem test_trdb_VJ2 :
    answers 0x3F1000000000#48 (holding [(6, 0x3F#8)] [(16, 0x01#8)]) (holding [(6, 0x3F#8)] [(16, 0x01#8)]) .ok 0x00000001#32 = true := by decide
/-- VJ4. -/
theorem test_trdb_VJ4 :
    answers 0x3F1000000000#48 (holding [(6, 0x1F#8)] [(16, 0x01#8)]) (holding [(6, 0x1F#8)] [(16, 0x01#8)]) .errIndex 0x00000000#32 = true := by decide
/-- VE1. -/
theorem test_tsetBat_VE1 :
    answers 0x400041480000#48 (holding [(6, 0x3F#8)] []) (holding [(6, 0x3F#8)] [(0, 0x10#8), (1, 0x32#8)]) .ok 0x00000000#32 = true := by decide
/-- VE38. -/
theorem test_tsetBat_VE38 :
    answers 0x40007FC00000#48 (holding [(6, 0x3E#8)] []) (holding [(6, 0x3E#8)] []) .ok 0x00000000#32 = true := by decide
/-- VE5. -/
theorem test_tsetCur_VE5 :
    answers 0x410040ECCCCD#48 (holding [(6, 0x3E#8)] []) (holding [(6, 0x3E#8)] [(0, 0x47#8), (1, 0x66#8)]) .ok 0x00000000#32 = true := by decide
/-- VE12. -/
theorem test_tsetTemp_VE12 :
    answers 0x4200000001FB#48 (holding [(6, 0x3F#8)] []) (holding [(6, 0x3F#8)] [(4, 0xFB#8)]) .ok 0x00000000#32 = true := by decide
/-- VE18. -/
theorem test_tsetRpm_VE18 :
    answers 0x4300FFFFFFFE#48 (holding [(6, 0x3F#8)] []) (holding [(6, 0x3F#8)] [(5, 0xFF#8), (6, 0xFE#8)]) .ok 0x00000000#32 = true := by decide
/-- VE24. -/
theorem test_tsetGps_VE24 :
    answers 0x4401C0500000#48 (holding [(6, 0x3F#8)] []) (holding [(6, 0x3F#8)] [(10, 0xFF#8), (11, 0xF3#8), (12, 0x02#8)]) .ok 0x00000000#32 = true := by decide
/-- VE35. -/
theorem test_tsetGps_VE35 :
    answers 0x44037F800000#48 (holding [(6, 0x0F#8)] []) (holding [(6, 0x0F#8)] []) .errIndex 0x00000000#32 = true := by decide
/-- VH7. -/
theorem test_tsetAlm_VH7 :
    answers 0x450200000001#48 (holding [(6, 0x7F#8)] [(16, 0xF8#8)]) (holding [(6, 0x7F#8)] [(16, 0xFC#8)]) .ok 0x00000000#32 = true := by decide
/-- VH12. -/
theorem test_tsetAlm_VH12 :
    answers 0x450200000001#48 (holding [(6, 0x5F#8)] []) (holding [(6, 0x5F#8)] []) .ok 0x00000000#32 = true := by decide
/-- VJ10. -/
theorem test_tclr_VJ10 :
    answers 0x4E0000000000#48 (holding [(6, 0x04#8)] [(0, 0x11#8), (1, 0x22#8), (16, 0x33#8)]) (holding [(6, 0x04#8)] [(0, 0x00#8), (1, 0x00#8), (16, 0x00#8)]) .ok 0x00000000#32 = true := by decide
/-- VJ7. -/
theorem test_twrb_VJ7 :
    answers 0x4F00000001A5#48 (holding [(6, 0x3F#8)] []) (holding [(6, 0x3F#8)] [(0, 0xA5#8)]) .ok 0x00000000#32 = true := by decide
/-- VJ8. -/
theorem test_twrb_VJ8 :
    answers 0x4F01000000AA#48 (holding [(6, 0x04#8)] []) (holding [(6, 0x04#8)] []) .errIndex 0x00000000#32 = true := by decide
/-- VB33. -/
theorem test_ten_VB33 :
    answers 0x500500000000#48 (holding [(6, 0x25#8)] []) (holding [(6, 0x25#8)] []) .ok 0x00000001#32 = true := by decide
/-- VB35. -/
theorem test_ten_VB35 :
    answers 0x500600000000#48 (holding [(6, 0x25#8)] []) (holding [(6, 0x25#8)] []) .errIndex 0x00000000#32 = true := by decide
/-- VB25. -/
theorem test_toff_VB25 :
    answers 0x510500000000#48 (holding [(6, 0x54#8)] []) (holding [(6, 0x54#8)] []) .ok 0x0102000A#32 = true := by decide
/-- VB26. -/
theorem test_toff_VB26 :
    answers 0x510000000000#48 (holding [(6, 0x54#8)] []) (holding [(6, 0x54#8)] []) .ok 0x00000000#32 = true := by decide
/-- VB8. -/
theorem test_tsize_VB8 :
    answers 0x520000000000#48 (holding [(6, 0x7F#8)] []) (holding [(6, 0x7F#8)] []) .ok 0x00000011#32 = true := by decide
/-- VB27. -/
theorem test_tsize_VB27 :
    answers 0x520000000000#48 (holding [(6, 0x54#8)] []) (holding [(6, 0x54#8)] []) .ok 0x0000000B#32 = true := by decide
/-- VC22. -/
theorem test_f3enc_VC22 :
    answers 0x6000C7000040#48 State.reset State.reset .ok 0x00800000#32 = true := by decide
/-- VC20. -/
theorem test_f3enc_VC20 :
    answers 0x600046FFFF00#48 State.reset State.reset .errRange 0x00000000#32 = true := by decide
/-- VG7. -/
theorem test_f3dec_VG7 :
    answers 0x610000FFF302#48 State.reset State.reset .ok 0xC0500000#32 = true := by decide
/-- VG15. -/
theorem test_f3dec_VG15 :
    answers 0x610000000396#48 State.reset State.reset .ok 0x00000002#32 = true := by decide
/-- VD7. -/
theorem test_f2enc_VD7 :
    answers 0x620040500000#48 State.reset State.reset .ok 0x0000100D#32 = true := by decide
/-- VD16. -/
theorem test_f2enc_VD16 :
    answers 0x6200C4162000#48 State.reset State.reset .ok 0x00000DA7#32 = true := by decide
/-- VF5. -/
theorem test_f2dec_VF5 :
    answers 0x630000000800#48 State.reset State.reset .ok 0xC5000000#32 = true := by decide
/-- VF10. -/
theorem test_f2dec_VF10 :
    answers 0x630000001FF3#48 State.reset State.reset .ok 0xC0500000#32 = true := by decide
/-- VK1. -/
theorem test_undefined_VK1 :
    answers 0x0100FFFFFFFF#48 (holding [(6, 0x3F#8)] [(0, 0x01#8)]) (holding [(6, 0x3F#8)] [(0, 0x01#8)]) .errOpcode 0x00000000#32 = true := by decide
/-- VK15. -/
theorem test_undefined_VK15 :
    answers 0xFF00FFFFFFFF#48 (holding [(6, 0x3F#8)] [(0, 0x01#8)]) (holding [(6, 0x3F#8)] [(0, 0x01#8)]) .errOpcode 0x00000000#32 = true := by decide

/-! ### The stop, the assembler, the floats -/

/-- The model's own stop (log 5), in a state that breaks the invariant. -/
theorem test_access_outside_the_buffer :
    stopsAt (exec (.trdb 17#8) { State.reset with lay := { Lay.empty with size := 18 } }) .tlm 17 = true := by decide

/-- R53, R45: `TSET_GPS y, -3.25 => 0 00000000`, the notation of VE24. -/
theorem test_assemble_text :
    (assembleText "TSET_GPS y, -3.25 => 0 00000000").toOption =
      some (some (.tsetGps 1#8 0xC0500000#32), some ⟨.ok, 0#32⟩) := by decide

/-- The two forms of one expected response (R53), and data that is not eight digits (R46). -/
theorem test_expected_response :
    responseText "OK:0x00000020".toList = some ⟨.ok, 0x20#32⟩ ∧ responseText "0 00000020".toList = some ⟨.ok, 0x20#32⟩ ∧
      responseText "0 20".toList = none := by decide

/-- The three examples of R53. -/
theorem test_decimal_literals :
    realText "3.25".toList = some (.real false 325 (-2)) ∧ realText "-0.75".toList = some (.real true 75 (-2)) ∧
      realText "1e-3".toList = some (.real false 1 (-3)) := by decide

/-- The spellings beyond them that log 19 names. -/
theorem test_other_literal_spellings :
    realText "1e+3".toList = some (.real false 1 3) ∧ realText "1e0x3".toList = none ∧ realText "1E3".toList = none ∧
      realText ".5".toList = some (.real false 5 (-1)) ∧ realText "5.".toList = some (.real false 5 0) ∧
      realText "+1.5".toList = none ∧ realText ".".toList = none := by decide

/-- R53: an integer operand is taken modulo 2^32 (VE9). -/
theorem test_assemble_negative_integer :
    (assemble ⟨"TSET_TEMP", none, some (.integer (-5))⟩).toOption = some (.tsetTemp 0xFFFFFFFB#32) := by decide

/-- R54: `TSET_GPS3` is three commands, x, y, z. -/
theorem test_expand_gps3 :
    expandPseudo (.tsetGps3 1#32 2#32 3#32) = [.tsetGps 0#8 1#32, .tsetGps 1#8 2#32, .tsetGps 2#8 3#32] := by decide

/-- R13: a tie goes away from zero. -/
theorem test_round_ties : roundHAZ ⟨5, 1⟩ = 3 ∧ roundHAZ ⟨-5, 1⟩ = -3 ∧ roundHAZ ⟨-1, 2⟩ = 0 := by decide

/-- The column LARGEST_FIT of VC6 and VD7 (R102). -/
theorem test_largest_fit :
    enc3 .largestFit ⟨13, 2⟩ = some ⟨26624, 13⟩ ∧ enc2 .largestFit ⟨13, 2⟩ = some ⟨832, 8⟩ := by decide

/-! ### The hypotheses of the statements are met -/

theorem witness_DecodeOfEncodeIsTheCommand : (Instr.tsetGps 255#8 0xFFFFFFFF#32).wellFormed = true := rfl

theorem witness_IgnoredFieldsDoNotMatter : decode 0x1AFFDEADBEEF#48 = .ok .sgetTmsk := by decide

/-- Both ends of each undefined range meet the first hypothesis, and the defined opcodes beside them the second. -/
theorem witness_UndefinedOpcodesAnswerErrOpcode :
    (∀ op ∈ [0x01#8, 0x0F#8, 0x1B#8, 0x1E#8, 0x2B#8, 0x2E#8, 0x36#8, 0x3E#8, 0x46#8, 0x4D#8, 0x53#8, 0x5F#8, 0x64#8, 0xFF#8],
      let n := (opField (packCommand op 0#8 0#32)).toNat
      (1 ≤ n ∧ n ≤ 0x0F) ∨ (0x1B ≤ n ∧ n ≤ 0x1E) ∨ (0x2B ≤ n ∧ n ≤ 0x2E) ∨ (0x36 ≤ n ∧ n ≤ 0x3E) ∨
        (0x46 ≤ n ∧ n ≤ 0x4D) ∨ (0x53 ≤ n ∧ n ≤ 0x5F) ∨ (0x64 ≤ n ∧ n ≤ 0xFF)) ∧
    (∀ op ∈ [0x00#8, 0x10#8, 0x1A#8, 0x1F#8, 0x2A#8, 0x2F#8, 0x35#8, 0x3F#8, 0x45#8, 0x4E#8, 0x52#8, 0x60#8, 0x63#8],
      let n := (opField (packCommand op 0#8 0#32)).toNat
      ¬ ((1 ≤ n ∧ n ≤ 0x0F) ∨ (0x1B ≤ n ∧ n ≤ 0x1E) ∨ (0x2B ≤ n ∧ n ≤ 0x2E) ∨ (0x36 ≤ n ∧ n ≤ 0x3E) ∨
        (0x46 ≤ n ∧ n ≤ 0x4D) ∨ (0x53 ≤ n ∧ n ≤ 0x5F) ∨ (0x64 ≤ n ∧ n ≤ 0xFF))) := by
  decide

theorem witness_StepRunsTheDecodedCommand :
    let s := State.reset.withFetchWord 48 0x15FF00000000
    s.inputs = ⟨false, true, 0x15FF00000000#48⟩ :: [] ∧ decode 0x15FF00000000#48 = .ok .sgetPsz := by
  decide

theorem witness_ResetInputGivesTheResetState :
    ({ holding [(6, 0x7F#8)] [(3, 1#8)] with inputs := [⟨true, true, 0#48⟩] } : State).inputs = ⟨true, true, 0#48⟩ :: [] := rfl

theorem witness_IdlePortKeepsTheState :
    State.reset.inputs = [] ∧
      ({ State.reset with inputs := [⟨false, false, 7#48⟩] } : State).inputs = ⟨false, false, 7#48⟩ :: [] := ⟨rfl, rfl⟩

theorem witness_ResetRecordThroughEveryGetter : (5#8 : Byte).toNat < 6 ∧ (2#8 : Byte).toNat < 3 ∧ (31#8 : Byte).toNat < 32 := by
  decide

/-- A state with every field enabled and data in both buffers, in which a command is presented. -/
theorem witness_EveryStepKeepsTheInvariant :
    let s := (holding [(6, 0x7F#8), (31, 1#8)] [(0, 0x10#8), (16, 5#8)]).withFetchWord 48 0x2A0000000004
    s.Inv ∧ ∃ t, step s = .next t := ⟨by decide, _, rfl⟩

theorem witness_EveryStepGivesANextState : (holding [(6, 0x7F#8), (31, 1#8)] [(0, 0x10#8), (16, 5#8)]).Inv := by decide

/-- Every field one byte too far, with operands 3.25 and 0. -/
theorem witness_AccessOutsideTheBufferStops :
    let e : LayEntry := ⟨true, 16, 0, 16⟩
    let s : State := { State.reset with lay := ⟨e, e, ⟨true, 17, 0, 8⟩, e, ⟨true, 9, 0, 72⟩, ⟨true, 17, 0, 3⟩, 18⟩ }
    s.lay.bat.en = true ∧ 17 < s.lay.bat.off + 2 ∧ s.lay.cur.en = true ∧ 17 < s.lay.cur.off + 2 ∧
      float2Bytes Config.params 0x40500000#32 = .ok [0x10#8, 0x0D#8] ∧ s.lay.temp.en = true ∧ 17 < s.lay.temp.off + 1 ∧
      s.lay.rpm.en = true ∧ 17 < s.lay.rpm.off + 2 ∧ (2#8 : Byte).toNat < 3 ∧ s.lay.gps.en = true ∧
      17 < axisOffset s.lay.gps (2#8 : Byte).toNat + 3 ∧
      float3Bytes Config.params 0x40500000#32 = .ok [0x00#8, 0x0D#8, 0x02#8] ∧
      (2#8 : Byte).toNat < s.lay.alm.width ∧ 17 < s.lay.alm.off + 1 ∧
      17 ≤ (17#8 : Byte).toNat ∧ (17#8 : Byte).toNat < s.lay.size :=
  ⟨rfl, by decide, rfl, by decide, rfl, rfl, by decide, rfl, by decide, by decide, rfl, by decide, rfl, by decide, by decide,
    by decide, by decide⟩

theorem witness_EveryCommandRespondsOnce : exec .nop State.reset = .next (State.reset.respond ⟨.ok, 0#32⟩) := rfl

theorem witness_FaultsChangeNothing :
    (∃ t r, execWord 0x1F2000000000#48 State.reset = .next t ∧ t.rsp = some r ∧ r.status ≠ .ok) ∧
      (∃ t r, execWord 0xFF0000000000#48 State.reset = .next t ∧ t.rsp = some r ∧ r.status ≠ .ok) :=
  ⟨⟨_, _, rfl, rfl, by decide⟩, _, _, rfl, rfl, by decide⟩

theorem witness_StatusesFollowTheMatrix :
    ∃ t, exec (.f3enc 0x7F800000#32) State.reset = .next t ∧ t.rsp = some ⟨.errNan, 0#32⟩ := ⟨_, rfl, rfl⟩

theorem witness_CommandsWriteOnlyTheirSpace :
    writesSet .tclr = false ∧ writesTlm (.ssetTmsk 1#32) = false ∧ writesMask (.swrb 5#8 1#32) = false ∧
      (∃ t, exec .tclr State.reset = .next t) ∧ (∃ t, exec (.ssetTmsk 1#32) State.reset = .next t) ∧
      (∃ t, exec (.swrb 5#8 1#32) State.reset = .next t) := ⟨rfl, rfl, rfl, ⟨_, rfl⟩, ⟨_, rfl⟩, _, rfl⟩

theorem witness_ReadsHaveNoSideEffect :
    writesSet .tsize = false ∧ writesTlm .tsize = false ∧
      exec .tsize State.reset = .next (State.reset.respond ⟨.ok, 0#32⟩) := ⟨rfl, rfl, rfl⟩

theorem witness_RepeatedCommandsChangeNothingMore :
    State.reset.Inv ∧ ∃ t, exec (.ssetNch 0#32) State.reset = .next t := ⟨by decide, _, rfl⟩

theorem witness_EarlierResponsesAreNotRead : ∃ t, exec (.ssetChan 7#32) State.reset = .next t := ⟨_, rfl⟩

theorem witness_RunIsTheFoldOfCommands : State.reset.Inv ∧ [0x2A000000007F#48, 0x520000000000#48] ≠ [] := ⟨by decide, by simp⟩

theorem witness_EqualReadsAreEqualContents :
    Memory.wf 32 [(0, 1#8), (31, 2#8)] = true ∧ ∀ a, a < 32 → Memory.read [(0, 1#8), (31, 2#8)] a = Memory.read [(0, 1#8), (31, 2#8)] a :=
  ⟨by decide, fun _ _ => rfl⟩

theorem witness_GettersOfSettingsBytesOneToSix : ∃ t, exec (.ssetPsz 33#32) State.reset = .next t := ⟨_, rfl⟩

theorem witness_SettersOfSettingsByteZero : (7#32 : Word).toNat % 4 = 3 := by decide

theorem witness_SettersOfSettingsBytesFiveAndSix :
    (holding [(6, 0x7F#8)] []).Inv ∧ BitVec.extractLsb' 0 8 0x17F#32 = (holding [(6, 0x7F#8)] []).byte .set 6 := by decide

/-- The greatest and the least legal value of each settings field, and a bit outside each kind of slice. -/
theorem witness_SettingsReadBackWhatWasSet :
    settingLegal .dyn 1 ∧ settingLegal .ack 0 ∧ settingLegal .ackp 1 ∧ settingLegal .rate 2 ∧ settingLegal .chan 127 ∧
      settingLegal .psz 32 ∧ settingLegal .freq 1 ∧ settingLegal .freq 255 ∧ settingLegal .rdly 15 ∧ settingLegal .nch 1 ∧
      settingLegal .nch 32 ∧ settingLegal .chsz 8 ∧ settingLegal .tmsk 255 ∧
      ¬ (5 = Setting.nch.slot.byte ∧ Setting.nch.slot.lo ≤ 5 ∧ 5 < Setting.nch.slot.lo + Setting.nch.slot.width) := by
  simp [settingLegal, Setting.slot]

theorem witness_RawSettingsAccess : 32 ≤ (32#8 : Byte).toNat ∧ (31#8 : Byte).toNat < 32 := by decide

theorem witness_SettingsImageLoadsAndDumps :
    (Pseudo.sload ([0x17#8, 0x4C#8, 0x20#8, 0x3C#8, 0x05#8, 0x27#8, 0x3F#8] ++ List.replicate 25 0#8)).wellFormed = true := by
  decide

/-- A mask inside another, and two indices that the last field and no field cover. -/
theorem witness_LayoutProperties :
    (∀ k, (0x54#8 : Byte).getLsbD k = true → (0x7F#8 : Byte).getLsbD k = true) ∧
      ((layout 0x54#8).alm.off ≤ 10 ∧ 10 < (layout 0x54#8).size ∧ ¬ 11 < (layout 0x54#8).size) := by
  refine ⟨fun k h => ?_, by decide⟩
  have hk := BitVec.lt_of_getLsbD h
  interval_cases k <;> revert h <;> decide

theorem witness_LayoutQueries :
    (holding [(6, 0x54#8)] []).Inv ∧ 6 ≤ (6#8 : Byte).toNat ∧ (4#8 : Byte).toNat < 5 ∧ (0#8 : Byte).toNat = fieldNumber .bat ∧
      (5#8 : Byte).toNat = fieldNumber .alm ∧ ((holding [(6, 0x54#8)] []).lay.entry .bat).en = false := by decide

theorem witness_MaskChangeKeepsTelemetryBytes : (holding [(6, 0x7F#8)] [(0, 0x10#8), (16, 5#8)]).Inv := by decide

/-- The exponent field at 0, 1, 254 and 255 (R112). -/
theorem witness_Binary32WordsAreExact :
    (BitVec.extractLsb' 23 8 0x7F800000#32).toNat = 255 ∧ (BitVec.extractLsb' 0 23 0x7F800000#32).toNat = 0 ∧
      (BitVec.extractLsb' 23 8 0x7F800001#32).toNat = 255 ∧ (BitVec.extractLsb' 0 23 0x7F800001#32).toNat ≠ 0 ∧
      (BitVec.extractLsb' 23 8 0x807FFFFF#32).toNat = 0 ∧ (BitVec.extractLsb' 23 8 0x00800000#32).toNat = 1 ∧
      (BitVec.extractLsb' 23 8 0xFF7FFFFF#32).toNat = 254 := by decide

/-- `-32768 / 2^164 = -2^-149` is exact on the port (VG25); `3 / 2^150` lies below 2^-126 and is a tie between 1 and 2 units,
stored as 2 (VG15); `-32768 / 2^255` is in the range too. -/
theorem witness_DecodedValuesOnThePort :
    |(-32768 : ℤ)| ≤ 32768 ∧ 164 ≤ 255 ∧ 255 ≤ 255 ∧ (-32768 : ℤ) ≠ 0 ∧
      (∃ z : ℤ, ((-32768 : ℤ) : ℚ) / 2 ^ 164 * 2 ^ 149 = z) ∧
      |((3 : ℤ) : ℚ) / 2 ^ 150| < (2 : ℚ) ^ (-126 : ℤ) ∧ ((realToB32 ⟨3, 150⟩).extractLsb' 0 23).toNat = 2 ∧
      |((2 : Nat) : ℚ) - |((3 : ℤ) : ℚ) / 2 ^ 150| * 2 ^ 149| = 1 / 2 :=
  ⟨by norm_num, by norm_num, by norm_num, by norm_num, ⟨-1, by norm_num⟩, by norm_num [abs_of_pos], by decide,
    by norm_num [abs_of_pos]⟩

/-- One number per clause of -2047..2047: 2047.5 is in range nowhere; 3.25 is exact at 2; 0.625 is exact at neither 0 nor 2, and in range at both. -/
theorem witness_SearchFollowsItsTable :
    [0, 2].Pairwise (· < ·) ∧ (-2047 : ℤ) ≤ 0 ∧ (0 : ℤ) ≤ 2047 ∧ (∀ e ∈ [0, 2], ¬ inRange ⟨4095, 1⟩ (-2047) 2047 e) ∧
      (∃ e ∈ [0, 2], inRange ⟨13, 2⟩ (-2047) 2047 e ∧ exactAt ⟨13, 2⟩ e) ∧
      (∃ e ∈ [0, 2], inRange ⟨5, 3⟩ (-2047) 2047 e) ∧
      (∀ e ∈ [0, 2], inRange ⟨5, 3⟩ (-2047) 2047 e → ¬ exactAt ⟨5, 3⟩ e) := by
  refine ⟨by decide, by decide, by decide, ?_, ⟨2, by simp, ?_, 13, ?_⟩, ⟨0, by simp, ?_⟩, ?_⟩
  · intro e he
    fin_cases he <;> simp only [inRange] <;> decide
  · simp only [inRange]; decide
  · norm_num [Dyad.toRat]
  · simp only [inRange]; decide
  · intro e he _ h
    obtain ⟨k, h⟩ := h
    have h8 : ((8 * k : ℤ) : ℚ) = ((5 * 2 ^ e : ℤ) : ℚ) := by
      push_cast
      rw [← h]
      norm_num [Dyad.toRat]
      ring
    have h8 : 8 * k = 5 * 2 ^ e := by exact_mod_cast h8
    fin_cases he <;> norm_num at h8 <;> omega

theorem witness_DecodedValueIgnoresThePolicy :
    [0, 2, 4].Pairwise (· < ·) ∧ search .smallestExact ⟨13, 2⟩ [0, 2, 4] (-2047) 2047 = some ⟨13, 2⟩ := by decide

theorem witness_EncodersAcceptTheirRange :
    enc3 .smallestExact ⟨13, 2⟩ = some ⟨13, 2⟩ ∧ enc2 .smallestExact ⟨13, 2⟩ = some ⟨13, 2⟩ ∧
      (65535 / 2 : ℚ) ≤ Dyad.toRat ⟨65535, 1⟩ ∧ Dyad.toRat ⟨-65537, 1⟩ ≤ -(65537 / 2 : ℚ) ∧
      (4095 / 2 : ℚ) ≤ |Dyad.toRat ⟨-4095, 1⟩| :=
  ⟨by decide, by decide, by norm_num [Dyad.toRat], by norm_num [Dyad.toRat], by norm_num [Dyad.toRat, abs_of_nonpos]⟩

/-- 3.25 is representable; 16384.5 (VC30) is not: in both clauses an encoding exists. -/
theorem witness_Float3RoundTrip :
    (enc3 .smallestExact ⟨13, 2⟩ = some ⟨13, 2⟩ ∧ ∃ e0 ≤ 255, ∃ k : ℤ, Dyad.toRat ⟨13, 2⟩ * 2 ^ e0 = k ∧ -32768 ≤ k ∧ k ≤ 32767) ∧
    (enc3 .smallestExact ⟨32769, 1⟩ = some ⟨16385, 0⟩ ∧
      ¬ ∃ e0 ≤ 255, ∃ k : ℤ, Dyad.toRat ⟨32769, 1⟩ * 2 ^ e0 = k ∧ -32768 ≤ k ∧ k ≤ 32767) := by
  refine ⟨⟨by decide, 2, by norm_num, 13, by norm_num [Dyad.toRat], by norm_num, by norm_num⟩, by decide, ?_⟩
  rintro ⟨e0, _, k, h, _, h2⟩
  have hk : ((2 * k : ℤ) : ℚ) = ((32769 * 2 ^ e0 : ℤ) : ℚ) := by
    push_cast
    rw [← h]
    norm_num [Dyad.toRat]
    ring
  have hk : 2 * k = 32769 * 2 ^ e0 := by exact_mod_cast hk
  rcases e0 with _ | e
  · omega
  · have hp : (1 : ℤ) ≤ 2 ^ e := one_le_pow₀ (by norm_num)
    rw [pow_succ] at hk
    omega

/-- 3.25 is representable; 600.5 (VD15) is not. -/
theorem witness_Float2RoundTrip :
    (enc2 .smallestExact ⟨13, 2⟩ = some ⟨13, 2⟩ ∧ ∃ e0 ≤ 15, ∃ k : ℤ, Dyad.toRat ⟨13, 2⟩ * 4 ^ e0 = k ∧ -2047 ≤ k ∧ k ≤ 2047) ∧
    (enc2 .smallestExact ⟨1201, 1⟩ = some ⟨601, 0⟩ ∧
      ¬ ∃ e0 ≤ 15, ∃ k : ℤ, Dyad.toRat ⟨1201, 1⟩ * 4 ^ e0 = k ∧ -2047 ≤ k ∧ k ≤ 2047) := by
  refine ⟨⟨by decide, 1, by norm_num, 13, by norm_num [Dyad.toRat], by norm_num, by norm_num⟩, by decide, ?_⟩
  rintro ⟨e0, _, k, h, _, h2⟩
  have hk : ((2 * k : ℤ) : ℚ) = ((1201 * 4 ^ e0 : ℤ) : ℚ) := by
    push_cast
    rw [← h]
    norm_num [Dyad.toRat]
    ring
  have hk : 2 * k = 1201 * 4 ^ e0 := by exact_mod_cast hk
  rcases e0 with _ | e
  · omega
  · have hp : (1 : ℤ) ≤ 4 ^ e := one_le_pow₀ (by norm_num)
    rw [pow_succ] at hk
    omega

theorem witness_FloatLaws :
    (-2047 : ℤ) ≤ -2047 ∧ (2047 : ℤ) ≤ 2047 ∧ enc3 .largestFit ⟨13, 2⟩ = some ⟨26624, 13⟩ ∧
      enc2 .largestFit ⟨13, 2⟩ = some ⟨832, 8⟩ := by decide

theorem witness_PackingIsInverse :
    (⟨-32768, 255⟩ : FloatCode).IsFloat3 ∧ (⟨32767, 0⟩ : FloatCode).IsFloat3 ∧ (⟨-2048, 30⟩ : FloatCode).IsFloat2 ∧
      (⟨2047, 0⟩ : FloatCode).IsFloat2 := by decide

/-- Exponent fields 255 and 254, and the numbers where acceptance ends: 32767.5, -32768.5, 2047.5, and numbers just inside. -/
theorem witness_FloatEncodeCommands :
    (BitVec.extractLsb' 23 8 0x7F800000#32).toNat = 255 ∧ (BitVec.extractLsb' 23 8 0x46FFFF00#32).toNat ≠ 255 ∧
    (∃ x, b32ToReal 0x46FFFF00#32 = .real x ∧ (65535 / 2 : ℚ) ≤ x.toRat) ∧
    (∃ x, b32ToReal 0xC7000080#32 = .real x ∧ x.toRat ≤ -(65537 / 2 : ℚ)) ∧
    (∃ x, b32ToReal 0xC7000040#32 = .real x ∧ -(65537 / 2 : ℚ) < x.toRat ∧ x.toRat < (65535 / 2 : ℚ)) ∧
    (∃ x, b32ToReal 0x44FFF000#32 = .real x ∧ (4095 / 2 : ℚ) ≤ |x.toRat|) ∧
    (∃ x, b32ToReal 0xC4FFE000#32 = .real x ∧ |x.toRat| < (4095 / 2 : ℚ)) := by
  refine ⟨by decide, by decide, ⟨_, rfl, ?_⟩, ⟨_, rfl, ?_⟩, ⟨_, rfl, ?_, ?_⟩, ⟨_, rfl, ?_⟩, ⟨_, rfl, ?_⟩⟩ <;>
    simp [Dyad.toRat, signedNat, BitVec.extractLsb', abs_div] <;> norm_num

theorem witness_BatteryAndCurrentGetters :
    (holding [(6, 0x3F#8)] [(0, 0x10#8)]).Inv ∧ (holding [(6, 0x3F#8)] [(0, 0x10#8)]).lay.bat.en = true ∧
      (holding [(6, 0x3F#8)] []).lay.cur.en = true ∧ State.reset.Inv ∧ State.reset.lay.bat.en = false ∧
      State.reset.lay.cur.en = false ∧ (holding [(6, 0x02#8)] []).Inv ∧ (holding [(6, 0x02#8)] []).lay.cur.off = 0 := by decide

theorem witness_TemperatureAndRpmGetters :
    (holding [(6, 0x0C#8)] [(0, 0xFB#8)]).Inv ∧ (holding [(6, 0x0C#8)] [(0, 0xFB#8)]).lay.temp.en = true ∧
      (holding [(6, 0x0C#8)] []).lay.rpm.en = true ∧ State.reset.lay.temp.en = false ∧ State.reset.lay.rpm.en = false := by
  decide

theorem witness_GpsAndAlarmGetters :
    (holding [(6, 0x5F#8)] []).Inv ∧ 3 ≤ (3#8 : Byte).toNat ∧ (2#8 : Byte).toNat < 3 ∧ (holding [(6, 0x5F#8)] []).lay.gps.en = true ∧
      State.reset.lay.gps.en = false ∧ (holding [(6, 0x5F#8)] []).lay.alm.width ≤ (2#8 : Byte).toNat ∧
      (1#8 : Byte).toNat < (holding [(6, 0x5F#8)] []).lay.alm.width := by decide

theorem witness_BatteryAndCurrentSetters :
    (holding [(6, 0x3F#8)] []).Inv ∧ (holding [(6, 0x3F#8)] []).lay.bat.en = true ∧ (holding [(6, 0x3F#8)] []).lay.cur.en = true ∧
      State.reset.Inv ∧ State.reset.lay.bat.en = false ∧ (BitVec.extractLsb' 23 8 0x7FC00000#32).toNat = 255 ∧
      (BitVec.extractLsb' 23 8 0x44FFF000#32).toNat ≠ 255 ∧ (BitVec.extractLsb' 23 8 0xC4FFE000#32).toNat ≠ 255 ∧
      (∃ x, b32ToReal 0x44FFF000#32 = .real x ∧ (4095 / 2 : ℚ) ≤ |x.toRat|) ∧
      (∃ x, b32ToReal 0xC4FFE000#32 = .real x ∧ |x.toRat| < (4095 / 2 : ℚ)) := by
  refine ⟨by decide, by decide, by decide, by decide, by decide, by decide, by decide, by decide, ⟨_, rfl, ?_⟩, ⟨_, rfl, ?_⟩⟩ <;>
    simp [Dyad.toRat, signedNat, BitVec.extractLsb', abs_div] <;> norm_num

theorem witness_TemperatureAndRpmSetters :
    (holding [(6, 0x0C#8)] []).Inv ∧ (holding [(6, 0x0C#8)] []).lay.temp.en = true ∧ (holding [(6, 0x0C#8)] []).lay.rpm.en = true ∧
      State.reset.Inv ∧ State.reset.lay.temp.en = false ∧ State.reset.lay.rpm.en = false := by decide

theorem witness_GpsSetter :
    (holding [(6, 0x10#8)] []).Inv ∧ (holding [(6, 0x10#8)] []).lay.gps.en = true ∧ State.reset.Inv ∧ State.reset.lay.gps.en = false ∧
      3 ≤ (3#8 : Byte).toNat ∧ (2#8 : Byte).toNat < 3 ∧ (BitVec.extractLsb' 23 8 0x7F800000#32).toNat = 255 ∧
      (BitVec.extractLsb' 23 8 0x46FFFF00#32).toNat ≠ 255 ∧ (BitVec.extractLsb' 23 8 0xC7000080#32).toNat ≠ 255 ∧
      (BitVec.extractLsb' 23 8 0xC7000040#32).toNat ≠ 255 ∧
      (∃ x, b32ToReal 0x46FFFF00#32 = .real x ∧ (65535 / 2 : ℚ) ≤ x.toRat) ∧
      (∃ x, b32ToReal 0xC7000080#32 = .real x ∧ x.toRat ≤ -(65537 / 2 : ℚ)) ∧
      (∃ x, b32ToReal 0xC7000040#32 = .real x ∧ -(65537 / 2 : ℚ) < x.toRat ∧ x.toRat < (65535 / 2 : ℚ)) := by
  refine ⟨by decide, by decide, by decide, by decide, by decide, by decide, by decide, by decide, by decide, by decide,
    ⟨_, rfl, ?_⟩, ⟨_, rfl, ?_⟩, ⟨_, rfl, ?_, ?_⟩⟩ <;>
    simp [Dyad.toRat, signedNat, BitVec.extractLsb'] <;> norm_num

theorem witness_AlarmSetterChangesOneBit :
    (holding [(6, 0x7F#8)] [(16, 0xF8#8)]).Inv ∧ 3 ≤ (3#8 : Byte).toNat ∧
      (2#8 : Byte).toNat < (holding [(6, 0x7F#8)] [(16, 0xF8#8)]).lay.alm.width ∧
      (holding [(6, 0x5F#8)] []).lay.alm.width ≤ (2#8 : Byte).toNat := by decide

theorem witness_RawTelemetryAccess :
    (holding [(6, 0x7F#8)] []).Inv ∧ (holding [(6, 0x7F#8)] []).lay.size ≤ (17#8 : Byte).toNat ∧
      (16#8 : Byte).toNat < (holding [(6, 0x7F#8)] []).lay.size := by decide

theorem witness_ClearZeroesTheWholeBuffer : (holding [(6, 0x04#8)] [(0, 0x11#8), (16, 0x33#8)]).Inv := by decide

theorem witness_StoredRealsReadBackAlikeUnderBothPolicies :
    let s := holding [(6, 0x1F#8)] []
    s.Inv ∧ (∃ t, s.writeFloat2 ⟨.smallestExact, .expMantHiMantLo⟩ s.lay.bat 0x40500000#32 = .next t) ∧
      (∃ t, s.writeFloat3 ⟨.smallestExact, .expMantHiMantLo⟩ s.lay.gps 2 0x40500000#32 = .next t) :=
  ⟨by decide, ⟨_, rfl⟩, _, rfl⟩

end Sys2Proof.Tests
end

/-! O13 and O6: what one step does with the word the host presents (R55), and that from a state with the invariant no step
stops (R7). The one stop of the model is an access outside `TLM` (log 5), so totality is: every access that `LAY` positions
lies in the buffer. -/

namespace Sys2Proof.Machine

/-! ### The shared operations answer a next state when their bytes exist -/

section SharedOperations

variable {s : State}

/-- A check that ends in a fault of the spec does not stop the machine (R143). -/
theorem State.raise_or_next {c : Prop} [Decidable c] {code : Status} {k : Result}
    (hk : ¬ c → ∃ t, k = .next t) : ∃ t, (if c then s.raise code else k) = .next t := by
  split
  · exact ⟨_, rfl⟩
  · next hc => exact hk hc

theorem Space.within_tlm_next {a n : Nat} {k : Result} (hfit : a + n ≤ 17) (hk : ∃ t, k = .next t) :
    ∃ t, Space.tlm.within a n k = .next t := by
  rwa [Space.within_of_le hfit]

theorem State.readChannel_next {en : Bool} {a n : Nat} {v : Word} (hfit : en = true → a + n ≤ 17) :
    ∃ t, s.readChannel en a n v = .next t := by
  cases en with
  | false => exact ⟨_, rfl⟩
  | true => exact ⟨_, State.readChannel_eq_next.mpr (.inr ⟨rfl, hfit rfl, rfl⟩)⟩

theorem State.writeChannel_next {en : Bool} {a : Nat} {operand : Except Status (List Byte)}
    (hfit : en = true → ∀ bs, operand = .ok bs → a + bs.length ≤ 17) :
    ∃ t, s.writeChannel en a operand = .next t := by
  cases en with
  | false => exact ⟨_, rfl⟩
  | true =>
    cases operand with
    | error c => exact ⟨_, rfl⟩
    | ok bs => exact ⟨_, State.writeChannel_eq_next.mpr (.inr (.inr ⟨bs, rfl, rfl, hfit rfl bs rfl, rfl⟩))⟩

theorem State.storeChannel_next {en : Bool} {a : Nat} (bs : List Byte) (hfit : en = true → a + bs.length ≤ 17) :
    ∃ t, s.writeChannel en a (.ok bs) = .next t :=
  State.writeChannel_next fun hen _ hbs => Except.ok.inj hbs ▸ hfit hen

theorem State.query_next (idx : Byte) (value : LayEntry → Word) : ∃ t, s.query idx value = .next t := by
  unfold State.query
  cases fieldOf? idx <;> exact ⟨_, rfl⟩

theorem State.answerBytes_next (operand : Except Status (List Byte)) : ∃ t, s.answerBytes operand = .next t := by
  cases operand <;> exact ⟨_, rfl⟩

theorem float2Bytes_length {p : Params} {w : Word} {bs : List Byte} (h : float2Bytes p w = .ok bs) : bs.length = 2 := by
  obtain ⟨c, hc, -⟩ | ⟨b0, b1, hb⟩ := float2Bytes_cases p w
  · simp [hc] at h
  · obtain rfl : [b0, b1] = bs := by simpa [hb] using h
    rfl

theorem float3Bytes_length {p : Params} {w : Word} {bs : List Byte} (h : float3Bytes p w = .ok bs) : bs.length = 3 := by
  obtain ⟨c, hc, -⟩ | ⟨b0, b1, b2, hb⟩ := float3Bytes_cases p w
  · simp [hc] at h
  · obtain rfl : [b0, b1, b2] = bs := by simpa [hb] using h
    rfl

theorem State.readFloat2_next {e : LayEntry} (hfit : e.en = true → e.off + 2 ≤ 17) :
    ∃ t, s.readFloat2 e = .next t :=
  State.readChannel_next hfit

theorem State.writeFloat2_next {p : Params} {e : LayEntry} {w : Word} (hfit : e.en = true → e.off + 2 ≤ 17) :
    ∃ t, s.writeFloat2 p e w = .next t :=
  State.writeChannel_next fun hen _ hbs => by rw [float2Bytes_length hbs]; exact hfit hen

theorem State.readFloat3_next {p : Params} {e : LayEntry} {axis : Nat}
    (hfit : e.en = true → axisOffset e axis + 3 ≤ 17) : ∃ t, s.readFloat3 p e axis = .next t :=
  State.readChannel_next hfit

theorem State.writeFloat3_next {p : Params} {e : LayEntry} {axis : Nat} {w : Word}
    (hfit : e.en = true → axisOffset e axis + 3 ≤ 17) : ∃ t, s.writeFloat3 p e axis w = .next t :=
  State.writeChannel_next fun hen _ hbs => by rw [float3Bytes_length hbs]; exact hfit hen

end SharedOperations

/-! ### Every access that `LAY` positions lies in `TLM` -/

section Positions

variable {s : State}

/-- The three bytes of a gps axis are among the nine of the gps field (R130). -/
theorem State.Inv.axis_fits (h : s.lay = layout (s.byte .set 6)) {axis : Nat} (haxis : axis < 3)
    (hen : s.lay.gps.en = true) : axisOffset s.lay.gps axis + 3 ≤ 17 := by
  have hgps : s.lay.gps.off + 9 ≤ 17 := State.Inv.entry_fits h .gps hen
  unfold axisOffset
  omega

/-- Where some alarm exists the alarm byte does (R132). -/
theorem State.Inv.alarm_fits (h : s.lay = layout (s.byte .set 6)) {i : Nat} (hi : i < s.lay.alm.width) :
    s.lay.alm.off + 1 ≤ 17 := by
  obtain ⟨-, -, hen⟩ := layout_alm (s.byte .set 6)
  rw [← h] at hen
  exact State.Inv.entry_fits h .alm (hen.mpr (Nat.zero_lt_of_lt hi))

/-- An index inside the record is an index of the buffer (R134, R135). -/
theorem State.Inv.record_fits (h : s.lay = layout (s.byte .set 6)) {a : Nat} (ha : ¬ s.lay.size ≤ a) : a + 1 ≤ 17 := by
  have hsize := layout_size_le (s.byte .set 6)
  rw [← h] at hsize
  omega

end Positions

/-! ### Commands and steps -/

/-- R7: "Every command is total" where `LAY` follows `SET[6]`. The commands not named have one path, which answers. -/
theorem exec_next (i : Instr) {s : State} (hlay : s.lay = layout (s.byte .set 6)) : ∃ t, exec i s = .next t := by
  cases i with
  | srdb | swrb => exact State.raise_or_next fun _ => ⟨_, rfl⟩
  | tgetBat => exact State.readFloat2_next (State.Inv.entry_fits hlay .bat)
  | tgetCur => exact State.readFloat2_next (State.Inv.entry_fits hlay .cur)
  | tgetTemp => exact State.readChannel_next (State.Inv.entry_fits hlay .temp)
  | tgetRpm => exact State.readChannel_next (State.Inv.entry_fits hlay .rpm)
  | tgetGps =>
    exact State.raise_or_next fun hidx => State.readFloat3_next (State.Inv.axis_fits hlay (Nat.lt_of_not_le hidx))
  | tgetAlm =>
    exact State.raise_or_next fun _ => State.readChannel_next fun hen => State.Inv.alarm_fits hlay (of_decide_eq_true hen)
  | trdb =>
    exact State.raise_or_next fun hidx => Space.within_tlm_next (State.Inv.record_fits hlay hidx) ⟨_, rfl⟩
  | tsetBat => exact State.writeFloat2_next (State.Inv.entry_fits hlay .bat)
  | tsetCur => exact State.writeFloat2_next (State.Inv.entry_fits hlay .cur)
  | tsetTemp => exact State.storeChannel_next _ (State.Inv.entry_fits hlay .temp)
  | tsetRpm => exact State.storeChannel_next _ (State.Inv.entry_fits hlay .rpm)
  | tsetGps =>
    exact State.raise_or_next fun hidx => State.writeFloat3_next (State.Inv.axis_fits hlay (Nat.lt_of_not_le hidx))
  | tsetAlm =>
    exact State.raise_or_next fun _ =>
      State.storeChannel_next _ fun hen => State.Inv.alarm_fits hlay (of_decide_eq_true hen)
  | twrb =>
    exact State.raise_or_next fun hidx => Space.within_tlm_next (State.Inv.record_fits hlay hidx) ⟨_, rfl⟩
  | ten idx => exact State.query_next idx fun e => boolWord e.en
  | toff idx => exact State.query_next idx LayEntry.word
  | f3enc w => exact State.answerBytes_next (float3Bytes Config.params w)
  | f2enc w => exact State.answerBytes_next (float2Bytes Config.params w)
  | _ => exact ⟨_, rfl⟩

/-- Every word is total, not only those that are commands (R50). -/
theorem execWord_next (w : CommandWord) {s : State} (hlay : s.lay = layout (s.byte .set 6)) :
    ∃ t, execWord w s = .next t := by
  obtain ⟨i, -, hexec⟩ | ⟨e, -, hraise⟩ := execWord_cases w s
  · rw [hexec]
    exact exec_next i hlay
  · exact ⟨_, hraise⟩

/-- A word that decodes runs its command. -/
theorem execWord_of_decode {w : CommandWord} {i : Instr} (h : decode w = .ok i) (s : State) : execWord w s = exec i s := by
  simp [execWord, h]

/-- A word presented without reset is accepted, as the port is always ready between steps (R55; log 8). -/
theorem step_of_presented {s : State} {w : CommandWord} {rest : List PortInput}
    (h : s.inputs = presentCommand w :: rest) : step s = execWord w s.begin := by
  have hevent : s.event = .command w := by
    simp [State.event, h, presentCommand, PortInput.event, State.cmdReady]
  simp [step, hevent]

/-- Settles O13, by the cases of a step; a command step is `execWord_next` on the state with the input taken. -/
theorem everyStepGivesANextState : Obligations.EveryStepGivesANextState := by
  intro s hinv
  obtain ⟨-, hidle⟩ | ⟨-, hreset⟩ | ⟨w, -, hcommand⟩ := step_cases s
  · exact ⟨_, hidle⟩
  · exact ⟨_, hreset⟩
  · obtain ⟨-, -, hlay⟩ := hinv.begin
    rw [hcommand]
    exact execWord_next w hlay

/-- Settles O6, from what the port accepts and what a word that decodes runs. -/
theorem stepRunsTheDecodedCommand : Obligations.StepRunsTheDecodedCommand := by
  intro s w rest i hinputs _ hdecode
  have hbegin : s.begin = { s with rsp := none, inputs := rest } := by simp [State.begin, hinputs]
  calc step s = execWord w s.begin := step_of_presented hinputs
    _ = exec i s.begin := execWord_of_decode hdecode _
    _ = exec i { s with rsp := none, inputs := rest } := by rw [hbegin]

end Sys2Proof.Machine

/-! O10, O12 and O21: the invariant at reset and along every step (R16, R27 (a)), and that no command reads the response
port or the waiting inputs (R19). Both rest on a layer said once: the ways a command can end, and that every shared
operation commutes with a change of the port. -/

namespace Sys2Proof.Machine

/-! ### The ways a command can end -/

/-- How a command that gives a next state ends: it only responds, with a status of its row of R152 and data 0 beside a
fault; or it is a writer of `SET` that stored one byte the buffer has; or a writer of `TLM` that stored bytes the buffer
has (R33, R143). -/
inductive CommandEnd (i : Instr) (s : State) : State → Prop
  | responded (r : Response) (hstatus : mayReturn i r.status = true) (hdata : r.status ≠ .ok → r.rdata = 0#32) :
      CommandEnd i s (s.respond r)
  | wroteSet (a : Nat) (v : Byte) (hwriter : writesSet i = true) (hfit : a < 32) (hmask : a = 6 → writesMask i = true) :
      CommandEnd i s ((s.writeSet a v).respond ⟨.ok, 0#32⟩)
  | wroteTlm (a : Nat) (bs : List Byte) (hwriter : writesTlm i = true) (hfit : a + bs.length ≤ 17) :
      CommandEnd i s ((s.writeTlm a bs).respond ⟨.ok, 0#32⟩)

namespace CommandEnd

variable {i : Instr} {s t : State}

theorem answered (d : Word) : CommandEnd i s (s.respond ⟨.ok, d⟩) :=
  .responded _ rfl fun h => absurd rfl h

theorem raised {c : Status} (hc : mayReturn i c = true) : CommandEnd i s (s.respond ⟨c, 0#32⟩) :=
  .responded _ hc fun _ => rfl

theorem of_answer {d : Word} (h : s.answer d = .next t) : CommandEnd i s t := by
  rw [State.answer_eq_next] at h
  exact h ▸ answered d

theorem of_raise_or {c : Prop} [Decidable c] {code : Status} {k : Result} (hcode : mayReturn i code = true)
    (hk : ¬ c → k = .next t → CommandEnd i s t) (h : (if c then s.raise code else k) = .next t) : CommandEnd i s t := by
  split at h
  · rw [State.raise_eq_next] at h
    exact h ▸ raised hcode
  · next hc => exact hk hc h

/-- Every settings field lies in `SET`, and only the mask's setter reaches `SET[6]` (R20). -/
theorem of_putSetting {f : Setting} {v : Word} (hwriter : writesSet i = true)
    (hmask : f.slot.byte = 6 → writesMask i = true) (h : (s.putSetting f v).answer 0#32 = .next t) :
    CommandEnd i s t := by
  rw [State.answer_eq_next, State.putSetting_eq] at h
  have hbyte := f.slot_fits.1
  exact h ▸ .wroteSet _ _ hwriter (by omega) hmask

theorem of_readChannel {en : Bool} {a n : Nat} {v : Word} (h : s.readChannel en a n v = .next t) :
    CommandEnd i s t := by
  obtain ⟨-, rfl⟩ | ⟨-, -, rfl⟩ := State.readChannel_eq_next.mp h
  · exact answered 0#32
  · exact answered v

theorem of_writeChannel {en : Bool} {a : Nat} {operand : Except Status (List Byte)} (hwriter : writesTlm i = true)
    (hoperand : ∀ c, operand = .error c → mayReturn i c = true) (h : s.writeChannel en a operand = .next t) :
    CommandEnd i s t := by
  obtain ⟨-, rfl⟩ | ⟨c, -, hc, rfl⟩ | ⟨bs, -, -, hfit, rfl⟩ := State.writeChannel_eq_next.mp h
  · exact answered 0#32
  · exact raised (hoperand c hc)
  · exact .wroteTlm a bs hwriter hfit

/-- A setter whose operand always encodes has no fault of its own (R127, R129, R133). -/
theorem of_storeChannel {en : Bool} {a : Nat} {bs : List Byte} (hwriter : writesTlm i = true)
    (h : s.writeChannel en a (.ok bs) = .next t) : CommandEnd i s t :=
  of_writeChannel hwriter (by simp) h

theorem of_answerBytes {operand : Except Status (List Byte)}
    (hoperand : ∀ c, operand = .error c → mayReturn i c = true) (h : s.answerBytes operand = .next t) :
    CommandEnd i s t := by
  obtain ⟨c, hc, rfl⟩ | ⟨bs, -, rfl⟩ := State.answerBytes_eq_next.mp h
  · exact raised (hoperand c hc)
  · exact answered _

theorem of_query {idx : Byte} {value : LayEntry → Word} (hindex : mayReturn i .errIndex = true)
    (h : s.query idx value = .next t) : CommandEnd i s t := by
  obtain ⟨-, rfl⟩ | ⟨f, -, rfl⟩ := State.query_eq_next.mp h
  · exact raised hindex
  · exact answered _

end CommandEnd

section OperandFaults

variable {p : Params} {w : Word} {c : Status}

theorem float2Bytes_error (h : float2Bytes p w = .error c) : c = .errNan ∨ c = .errRange := by
  obtain ⟨c', hc', hfault⟩ | ⟨b0, b1, hok⟩ := float2Bytes_cases p w
  · exact Except.error.inj (hc'.symm.trans h) ▸ hfault
  · simp [hok] at h

theorem float3Bytes_error (h : float3Bytes p w = .error c) : c = .errNan ∨ c = .errRange := by
  obtain ⟨c', hc', hfault⟩ | ⟨b0, b1, b2, hok⟩ := float3Bytes_cases p w
  · exact Except.error.inj (hc'.symm.trans h) ▸ hfault
  · simp [hok] at h

/-- A command that takes a real may return either fault of its operand (R152). -/
theorem mayReturn_operandFault {i : Instr} (hnan : mayReturn i .errNan = true) (hrange : mayReturn i .errRange = true)
    (hc : c = .errNan ∨ c = .errRange) : mayReturn i c = true := by
  obtain rfl | rfl := hc
  · exact hnan
  · exact hrange

end OperandFaults

/-- What one command can do. The commands not named have one path, which answers and writes nothing. -/
theorem exec_commandEnd {i : Instr} {s t : State} (h : exec i s = .next t) : CommandEnd i s t := by
  cases i with
  | srdb idx => exact .of_raise_or rfl (fun _ => .of_answer) h
  | ssetDyn | ssetAck | ssetAckp | ssetRate | ssetChan | ssetPsz | ssetFreq | ssetRdly | ssetNch | ssetChsz =>
    exact .of_putSetting rfl (fun h6 => absurd h6 (by decide)) h
  | ssetTmsk => exact .of_putSetting rfl (fun _ => rfl) h
  | swrb idx wdata =>
    refine .of_raise_or rfl (fun hidx hw => ?_) h
    rw [State.answer_eq_next] at hw
    exact hw ▸ .wroteSet _ _ rfl (Nat.lt_of_not_le hidx) fun h6 => beq_iff_eq.mpr (BitVec.eq_of_toNat_eq h6)
  | tgetBat | tgetCur | tgetTemp | tgetRpm => exact .of_readChannel h
  | tgetGps | tgetAlm => exact .of_raise_or rfl (fun _ => .of_readChannel) h
  | trdb => exact .of_raise_or rfl (fun _ hread => .of_answer (Space.within_eq_next.mp hread).2) h
  | tsetBat | tsetCur => exact .of_writeChannel rfl (fun _ hc => mayReturn_operandFault rfl rfl (float2Bytes_error hc)) h
  | tsetTemp | tsetRpm => exact .of_storeChannel rfl h
  | tsetGps =>
    refine .of_raise_or rfl (fun _ => .of_writeChannel rfl fun _ hc => ?_) h
    exact mayReturn_operandFault rfl rfl (float3Bytes_error hc)
  | tsetAlm => exact .of_raise_or rfl (fun _ => .of_storeChannel rfl) h
  | tclr =>
    obtain rfl := State.answer_eq_next _ |>.mp h
    exact .wroteTlm _ _ rfl (by simp [Config.tlmSize])
  | twrb =>
    refine .of_raise_or rfl (fun _ hstore => ?_) h
    obtain ⟨hfit, hw⟩ := Space.within_eq_next.mp hstore
    rw [State.answer_eq_next] at hw
    exact hw ▸ .wroteTlm _ _ rfl hfit
  | ten => exact .of_query (value := fun e => boolWord e.en) rfl h
  | toff => exact .of_query (value := LayEntry.word) rfl h
  | f3enc => exact .of_answerBytes (fun _ hc => mayReturn_operandFault rfl rfl (float3Bytes_error hc)) h
  | f2enc => exact .of_answerBytes (fun _ hc => mayReturn_operandFault rfl rfl (float2Bytes_error hc)) h
  | _ => exact .of_answer h

/-! ### The invariant -/

section Invariant

variable {i : Instr} {s t : State}

/-- However a command ends, it keeps the invariant: `LAY` follows a write of `SET[6]` (R16). -/
theorem CommandEnd.inv (hend : CommandEnd i s t) (hinv : s.Inv) : t.Inv := by
  cases hend with
  | responded r => exact hinv.respond r
  | wroteSet a v _ hfit => exact (hinv.writeSet a v hfit).respond _
  | wroteTlm a bs _ hfit => exact (hinv.writeTlm a bs hfit).respond _

/-- A word that is no command only responds (R50). -/
theorem execWord_inv {w : CommandWord} (hinv : s.Inv) (h : execWord w s = .next t) : t.Inv := by
  obtain ⟨i, -, hexec⟩ | ⟨e, -, hraise⟩ := execWord_cases w s
  · exact (exec_commandEnd (hexec ▸ h)).inv hinv
  · obtain rfl := Host.Outcome.next.inj (hraise.symm.trans h)
    exact hinv.respond _

theorem layout_zero : layout 0x00#8 = .empty := by decide

theorem State.reset_inv : State.reset.Inv :=
  ⟨State.reset_wf.1, State.reset_wf.2, by rw [State.reset_byte, layout_zero]; rfl⟩

/-- The data of a reset by the port are those of `State.reset` (R155). -/
theorem State.resetByPort_inv (s : State) : s.resetByPort.Inv := State.reset_inv

end Invariant

/-- Settles O10: the layout of the reset mask is the empty table. -/
theorem resetMeetsTheInvariant : Obligations.ResetMeetsTheInvariant := State.reset_inv

/-- Settles O12, by the cases of a step; a command step is `execWord_inv` on the state with the input taken. -/
theorem everyStepKeepsTheInvariant : Obligations.EveryStepKeepsTheInvariant := by
  intro s t hinv hstep
  obtain ⟨-, hidle⟩ | ⟨-, hreset⟩ | ⟨w, -, hcommand⟩ := step_cases s
  · obtain rfl := Host.Outcome.next.inj (hidle.symm.trans hstep)
    exact hinv.begin
  · obtain rfl := Host.Outcome.next.inj (hreset.symm.trans hstep)
    exact State.resetByPort_inv s.begin
  · exact execWord_inv hinv.begin (hcommand.symm.trans hstep)

/-! ### Commands do not read the port -/

/-- The state with another response standing and other inputs waiting. -/
def State.withPort (s : State) (r : Option Response) (q : List PortInput) : State := { s with rsp := r, inputs := q }

/-- A result with other inputs waiting in its state. -/
def withInputs (q : List PortInput) : Result → Result
  | .next t => .next { t with inputs := q }
  | .fault f => .fault f
  | .refused c => .refused c

section Port

variable (s : State) (r : Option Response) (q : List PortInput)

/-- Two results behind one check agree up to the inputs when each pair of branches does. -/
theorem ite_withInputs {c : Prop} [Decidable c] {k₁ k₂ k₁' k₂' : Result} (h₁ : k₁' = withInputs q k₁)
    (h₂ : k₂' = withInputs q k₂) : (if c then k₁' else k₂') = withInputs q (if c then k₁ else k₂) := by
  rw [apply_ite (withInputs q), h₁, h₂]

theorem Space.within_withInputs {sp : Space} {a n : Nat} {k k' : Result} (h : k' = withInputs q k) :
    sp.within a n k' = withInputs q (sp.within a n k) :=
  ite_withInputs q h rfl

theorem State.readChannel_withPort (en : Bool) (a n : Nat) (v : Word) :
    (s.withPort r q).readChannel en a n v = withInputs q (s.readChannel en a n v) :=
  ite_withInputs q (Space.within_withInputs q rfl) rfl

theorem State.writeChannel_withPort (en : Bool) (a : Nat) (operand : Except Status (List Byte)) :
    (s.withPort r q).writeChannel en a operand = withInputs q (s.writeChannel en a operand) := by
  cases operand with
  | error c => exact ite_withInputs q rfl rfl
  | ok bs => exact ite_withInputs q (Space.within_withInputs q rfl) rfl

theorem State.query_withPort (idx : Byte) (value : LayEntry → Word) :
    (s.withPort r q).query idx value = withInputs q (s.query idx value) := by
  unfold State.query
  cases fieldOf? idx <;> rfl

theorem State.answerBytes_withPort (operand : Except Status (List Byte)) :
    (s.withPort r q).answerBytes operand = withInputs q (s.answerBytes operand) := by
  cases operand <;> rfl

/-- R19: the port passes through every command unread. The commands not named have one path, which writes its buffer from
the buffers and answers. -/
theorem exec_withPort (i : Instr) : exec i (s.withPort r q) = withInputs q (exec i s) := by
  cases i with
  | srdb | swrb => exact ite_withInputs q rfl rfl
  | tgetBat | tgetCur | tgetTemp | tgetRpm => exact State.readChannel_withPort s r q _ _ _ _
  | tgetGps | tgetAlm => exact ite_withInputs q rfl (State.readChannel_withPort s r q _ _ _ _)
  | trdb | twrb => exact ite_withInputs q rfl (Space.within_withInputs q rfl)
  | tsetBat | tsetCur => exact State.writeChannel_withPort s r q _ _ _
  | tsetTemp w => exact State.writeChannel_withPort s r q _ _ (.ok [lowByte w])
  | tsetRpm w => exact State.writeChannel_withPort s r q _ _ (.ok (lowPair w))
  | tsetGps | tsetAlm => exact ite_withInputs q rfl (State.writeChannel_withPort s r q _ _ _)
  | ten idx => exact State.query_withPort s r q idx fun e => boolWord e.en
  | toff idx => exact State.query_withPort s r q idx LayEntry.word
  | f3enc | f2enc => exact State.answerBytes_withPort s r q _
  | _ => rfl

end Port

/-- Settles O21, from `exec_withPort` for every outcome. -/
theorem earlierResponsesAreNotRead : Obligations.EarlierResponsesAreNotRead := by
  intro i s t r q h
  calc exec i (s.withPort r q) = withInputs q (exec i s) := exec_withPort s r q i
    _ = .next { t with inputs := q } := by rw [h]; rfl

end Sys2Proof.Machine

/-! O1, O2, O3, O4, O5, O15, O23 and O34: the encoding of commands and responses (R45 to R55). The command side rests on one
layer about the opcode table: every command has a row, every row makes commands with its own opcode, format and operands, no
two rows share a mnemonic, and the opcodes no row has are the listed ones. -/

namespace Sys2Proof

/-! ### The opcode table -/

/-- R48: every command has its row in the opcode table. -/
theorem tableRow (i : Instr) : Laws.TableRow.Statement i := by
  open Laws.TableRow in
  cases i with
  | nop => exact nop
  | sgetDyn => exact sgetDyn
  | sgetAck => exact sgetAck
  | sgetAckp => exact sgetAckp
  | sgetRate => exact sgetRate
  | sgetChan => exact sgetChan
  | sgetPsz => exact sgetPsz
  | sgetFreq => exact sgetFreq
  | sgetRdly => exact sgetRdly
  | sgetNch => exact sgetNch
  | sgetChsz => exact sgetChsz
  | sgetTmsk => exact sgetTmsk
  | srdb idx => exact srdb idx
  | ssetDyn wdata => exact ssetDyn wdata
  | ssetAck wdata => exact ssetAck wdata
  | ssetAckp wdata => exact ssetAckp wdata
  | ssetRate wdata => exact ssetRate wdata
  | ssetChan wdata => exact ssetChan wdata
  | ssetPsz wdata => exact ssetPsz wdata
  | ssetFreq wdata => exact ssetFreq wdata
  | ssetRdly wdata => exact ssetRdly wdata
  | ssetNch wdata => exact ssetNch wdata
  | ssetChsz wdata => exact ssetChsz wdata
  | ssetTmsk wdata => exact ssetTmsk wdata
  | swrb idx wdata => exact swrb idx wdata
  | tgetBat => exact tgetBat
  | tgetCur => exact tgetCur
  | tgetTemp => exact tgetTemp
  | tgetRpm => exact tgetRpm
  | tgetGps idx => exact tgetGps idx
  | tgetAlm idx => exact tgetAlm idx
  | trdb idx => exact trdb idx
  | tsetBat wdata => exact tsetBat wdata
  | tsetCur wdata => exact tsetCur wdata
  | tsetTemp wdata => exact tsetTemp wdata
  | tsetRpm wdata => exact tsetRpm wdata
  | tsetGps idx wdata => exact tsetGps idx wdata
  | tsetAlm idx wdata => exact tsetAlm idx wdata
  | tclr => exact tclr
  | twrb idx wdata => exact twrb idx wdata
  | ten idx => exact ten idx
  | toff idx => exact toff idx
  | tsize => exact tsize
  | f3enc wdata => exact f3enc wdata
  | f3dec wdata => exact f3dec wdata
  | f2enc wdata => exact f2enc wdata
  | f2dec wdata => exact f2dec wdata

/-- A row makes commands of its own opcode and format, which hold exactly the operand fields the format reads (R47). -/
structure OpRow.Faithful (r : OpRow) : Prop where
  op : ∀ idx wdata, (r.build idx wdata).op = r.op
  format : ∀ idx wdata, (r.build idx wdata).format = r.format
  idx : ∀ idx wdata, (r.build idx wdata).idx = if r.format = .i ∨ r.format = .iw then idx else 0#8
  wdata : ∀ idx wdata, (r.build idx wdata).wdata = if r.format = .w ∨ r.format = .iw then wdata else 0#32

theorem opTable_faithful : ∀ r ∈ opTable, r.Faithful := by
  simp only [opTable, settingsReadRows, settingsWriteRows, telemetryReadRows, telemetryWriteRows, layoutAndFloatRows,
    List.forall_mem_append, List.forall_mem_cons, List.not_mem_nil,
    false_imp_iff, implies_true, and_true]
  and_intros <;> exact ⟨fun _ _ => rfl, fun _ _ => rfl, fun _ _ => rfl, fun _ _ => rfl⟩

theorem opRow?_mem {op : Byte} {r : OpRow} (h : opRow? op = some r) : r ∈ opTable := List.mem_of_find?_eq_some h

theorem opRow?_op {op : Byte} {r : OpRow} (h : opRow? op = some r) : r.op = op := by
  simpa using List.find?_some h

/-- R53: a mnemonic names one row. -/
theorem opTable_find?_mnemonic {r : OpRow} (hr : r ∈ opTable) :
    opTable.find? (fun r' => r'.mnemonic == r.mnemonic) = some r := by
  have hnodup : (opTable.map OpRow.mnemonic).Nodup := by decide
  cases hfind : opTable.find? (fun r' => r'.mnemonic == r.mnemonic) with
  | none => exact absurd (beq_self_eq_true r.mnemonic) (List.find?_eq_none.mp hfind r hr)
  | some r' =>
    have hname : r'.mnemonic = r.mnemonic := by simpa using List.find?_some hfind
    rw [List.inj_on_of_nodup_map hnodup (List.mem_of_find?_eq_some hfind) hr hname]

/-- The seven ranges of `OP` values that R50 lists. -/
abbrev IsUndefinedOp (op : Nat) : Prop :=
  (0x01 ≤ op ∧ op ≤ 0x0F) ∨ (0x1B ≤ op ∧ op ≤ 0x1E) ∨ (0x2B ≤ op ∧ op ≤ 0x2E) ∨ (0x36 ≤ op ∧ op ≤ 0x3E) ∨
    (0x46 ≤ op ∧ op ≤ 0x4D) ∨ (0x53 ≤ op ∧ op ≤ 0x5F) ∨ (0x64 ≤ op ∧ op ≤ 0xFF)

/-- R50: an opcode has no row exactly when it is listed. -/
theorem opRow?_eq_none_iff (op : Byte) : opRow? op = none ↔ IsUndefinedOp op.toNat := by
  have hisNone : ∀ op : Byte, (opRow? op).isNone = decide (IsUndefinedOp op.toNat) := by decide +kernel
  rw [← Option.isNone_iff_eq_none, hisNone, decide_eq_true_eq]

/-! ### Encoding a command -/

section Encoding

variable (i : Instr)

@[simp] theorem opField_encode : opField (encode i) = i.op := opField_packCommand _ _ _
@[simp] theorem idxField_encode : idxField (encode i) = i.idx := idxField_packCommand _ _ _
@[simp] theorem wdataField_encode : wdataField (encode i) = i.wdata := wdataField_packCommand _ _ _

/-- R45, R48: what the assembler emits for a command is that command. -/
@[simp] theorem decode_encode : decode (encode i) = .ok i := by
  obtain ⟨r, hrow, -, hbuild⟩ := tableRow i
  rw [decode_of_row (by rwa [opField_encode]), idxField_encode, wdataField_encode, hbuild]

/-- A word that decodes to `i` has the opcode of `i`, and `i` was made by that opcode's row. -/
theorem decode_eq_ok {w : CommandWord} {i : Instr} (h : decode w = .ok i) :
    ∃ r ∈ opTable, r.op = opField w ∧ r.build (idxField w) (wdataField w) = i := by
  cases hrow : opRow? (opField w) with
  | none => simp [decode_of_no_row hrow] at h
  | some r => exact ⟨r, opRow?_mem hrow, opRow?_op hrow, by simpa [decode_of_row hrow] using h⟩

/-- R51: encoding a decoded word keeps its opcode and the fields its format reads, and clears the others. -/
theorem encode_of_decode {w : CommandWord} {i : Instr} (h : decode w = .ok i) :
    encode i = packCommand (opField w)
      (if i.format = .i ∨ i.format = .iw then idxField w else 0#8)
      (if i.format = .w ∨ i.format = .iw then wdataField w else 0#32) := by
  obtain ⟨r, hr, hop, rfl⟩ := decode_eq_ok h
  have hfaithful := opTable_faithful r hr
  rw [encode, hfaithful.op, hfaithful.format, hfaithful.idx, hfaithful.wdata, hop]

/-- R51: an operand field the format does not read is 0. -/
theorem Instr.idx_eq_zero {i : Instr} (h : ¬ (i.format = .i ∨ i.format = .iw)) : i.idx = 0#8 := by
  obtain ⟨r, hrow, hformat, hbuild⟩ := tableRow i
  have hidx := (opTable_faithful r (opRow?_mem hrow)).idx i.idx i.wdata
  rwa [hbuild, hformat, if_neg h] at hidx

theorem Instr.wdata_eq_zero {i : Instr} (h : ¬ (i.format = .w ∨ i.format = .iw)) : i.wdata = 0#32 := by
  obtain ⟨r, hrow, hformat, hbuild⟩ := tableRow i
  have hwdata := (opTable_faithful r (opRow?_mem hrow)).wdata i.idx i.wdata
  rwa [hbuild, hformat, if_neg h] at hwdata

end Encoding

end Sys2Proof

namespace Sys2Proof.Machine

/-- Settles O1, by `decode_encode`. -/
theorem decodeOfEncodeIsTheCommand : Obligations.DecodeOfEncodeIsTheCommand := fun i _ => decode_encode i

/-- Settles O2: both words decode to the one command. -/
theorem ignoredFieldsDoNotMatter : Obligations.IgnoredFieldsDoNotMatter := by
  intro w i h
  refine ⟨encode_of_decode h, fun s => ?_⟩
  rw [execWord_of_decode h, execWord_of_decode (decode_encode i)]

/-- Settles O3, from the opcodes that have no row. -/
theorem undefinedOpcodesAnswerErrOpcode : Obligations.UndefinedOpcodesAnswerErrOpcode := by
  intro w
  change (IsUndefinedOp (opField w).toNat → _) ∧ (¬ IsUndefinedOp (opField w).toNat → _)
  rw [← opRow?_eq_none_iff]
  constructor
  · intro hnone s
    rw [execWord, decode_of_no_row hnone, State.raise_def]
  · intro hrow
    obtain ⟨r, hr⟩ := Option.ne_none_iff_exists'.mp hrow
    exact ⟨_, decode_of_row hr, execWord_of_decode (decode_of_row hr)⟩

/-- Settles O4: each word is the encoding of its command. -/
theorem sampleWordsDecode : Obligations.SampleWordsDecode :=
  ⟨decode_encode .nop, decode_encode .sgetPsz, decode_encode (.ssetTmsk 0x3F#32), decode_encode (.swrb 31#8 0x1A5#32),
    decode_encode (.tgetGps 1#8), decode_encode (.tsetGps 1#8 0xC0500000#32), decode_encode (.toff 4#8),
    decode_encode (.f3enc 0x40500000#32)⟩

/-! ### The assembler line of a command -/

/-- A byte written as a number is that byte, whatever the mnemonic (R53). -/
theorem idxByte_number (mnemonic : String) (b : Byte) : idxByte mnemonic (.number b.toNat) = .ok b := by
  simp [idxByte, IdxOperand.wellFormed, b.isLt]

/-- A word written as an integer is that word, whatever the mnemonic (R53). -/
theorem valueWord_integer (mnemonic : String) (w : Word) : valueWord mnemonic (.integer w.toNat) = .ok w := by
  simp [valueWord]

/-- Settles O5: the line's mnemonic finds the command's row, and its operands are the fields the row's format reads. -/
theorem assembledLineIsTheCommand : Obligations.AssembledLineIsTheCommand := by
  intro i
  obtain ⟨r, hrow, hformat, hbuild⟩ := tableRow i
  have hfind := opTable_find?_mnemonic (opRow?_mem hrow)
  cases hf : i.format with
  | n =>
    rw [Instr.idx_eq_zero (by simp [hf]), Instr.wdata_eq_zero (by simp [hf])] at hbuild
    simp [disassemble, assemble, hrow, hfind, hformat, hf, hbuild]
  | i =>
    rw [Instr.wdata_eq_zero (by simp [hf])] at hbuild
    simp [disassemble, assemble, hrow, hfind, hformat, hf, idxByte_number, Except.map, hbuild]
  | w =>
    rw [Instr.idx_eq_zero (by simp [hf])] at hbuild
    simp [disassemble, assemble, hrow, hfind, hformat, hf, valueWord_integer, Except.map, hbuild]
  | iw =>
    simp [disassemble, assemble, hrow, hfind, hformat, hf, idxByte_number, valueWord_integer, hbuild]

/-! ### Responses -/

/-- R55: however a command ends, it responds, and the host's inputs wait on. -/
theorem CommandEnd.responds {i : Instr} {s t : State} (h : CommandEnd i s t) :
    t.rsp.isSome = true ∧ t.inputs = s.inputs := by
  cases h with
  | responded => exact ⟨rfl, rfl⟩
  | wroteSet => exact ⟨rfl, rfl⟩
  | wroteTlm => exact ⟨rfl, rfl⟩

/-- Settles O15, by the ways a command can end. -/
theorem everyCommandRespondsOnce : Obligations.EveryCommandRespondsOnce :=
  fun _ _ _ h => (exec_commandEnd h).responds

/-- Settles O23: the response word is the code above the data. -/
theorem responseWordFields : Obligations.ResponseWordFields :=
  ⟨fun _ => ⟨BitVec.extractLsb'_append_eq_left, BitVec.extractLsb'_append_eq_right⟩, rfl, rfl, rfl, rfl, rfl⟩

/-! ### Loading and dumping the settings -/

section SettingsImage

variable {s t u : State}

/-- One command of a run, and the run of the rest (R150). -/
theorem runCommands_cons {i : Instr} {is : List Instr} {r : Response} {rs : List Response} (hexec : exec i s = .next t)
    (hrsp : t.rsp = some r) (hrest : runCommands is t = some (u, rs)) : runCommands (i :: is) s = some (u, r :: rs) := by
  have hstep : commandStep (encode i) s = some (t, r) := by
    simp [commandStep, execWord_of_decode (decode_encode i), hexec, hrsp]
  have hrest' : runWords (is.map encode) t = some (u, rs) := hrest
  simp [runCommands, runWords, hstep, hrest']

/-- R85: an index of `SET` is written. -/
theorem exec_swrb {idx : Byte} {wdata : Word} (h : idx.toNat < 32) :
    exec (.swrb idx wdata) s = .next ((s.writeSet idx.toNat (lowByte wdata)).respond ⟨.ok, 0#32⟩) :=
  if_neg (Nat.not_le.mpr h)

/-- R84: an index of `SET` is read. -/
theorem exec_srdb {idx : Byte} (h : idx.toNat < 32) :
    exec (.srdb idx) s = .next (s.respond ⟨.ok, zextByte (s.byte .set idx.toNat)⟩) :=
  if_neg (Nat.not_le.mpr h)

theorem lowByte_setWidth (b : Byte) : lowByte (b.setWidth 32) = b := by
  rw [lowByte, ← BitVec.setWidth_eq_extractLsb' (by decide), BitVec.setWidth_setWidth_of_le _ (by decide),
    BitVec.setWidth_eq]

/-- An index of `SET` is held by an 8-bit `IDX` (R54). -/
theorem toNat_ofNat_index {a : Nat} (h : a < 32) : (BitVec.ofNat 8 a).toNat = a := by
  rw [BitVec.toNat_ofNat, Nat.mod_eq_of_lt (by omega)]

/-- `LAY` is the layout of the mask in `SET` (R16). -/
def State.LayFollowsMask (s : State) : Prop := s.lay = layout (s.byte .set 6)

/-- A write of `SET` keeps `LAY` on the mask, and a write of the mask puts it there. -/
theorem State.layFollowsMask_writeSet {a : Nat} {v : Byte} (h : a = 6 ∨ s.LayFollowsMask) :
    (s.writeSet a v).LayFollowsMask := by
  by_cases ha : a = 6
  · subst ha
    simp [State.LayFollowsMask]
  · have hlay : s.LayFollowsMask := h.resolve_left ha
    simpa [State.LayFollowsMask, ha, State.writeSet_byte_other s v (Ne.symm ha)] using hlay

/-- `SLOAD` from any index on: the bytes are stored in order, each answered (OK, 0), and `LAY` follows the mask if it did
before or if the mask is among the bytes (R54, R85). -/
theorem runCommands_sload (bytes : List Byte) (start : Nat) (s : State) (hfit : start + bytes.length ≤ 32)
    (hlay : (start ≤ 6 ∧ 6 < start + bytes.length) ∨ s.LayFollowsMask) :
    ∃ t, runCommands (indexed .swrb start bytes) s = some (t, List.replicate bytes.length ⟨.ok, 0#32⟩) ∧
      t.set = s.set.writeList start bytes ∧ t.tlm = s.tlm ∧ t.LayFollowsMask := by
  induction bytes generalizing start s with
  | nil => exact ⟨s, rfl, rfl, rfl, hlay.resolve_left (by simp)⟩
  | cons b rest ih =>
    simp only [List.length_cons] at hfit hlay
    have hexec : exec (.swrb (BitVec.ofNat 8 start) (b.setWidth 32)) s =
        .next ((s.writeSet start b).respond ⟨.ok, 0#32⟩) := by
      have hindex := toNat_ofNat_index (a := start) (by omega)
      rw [exec_swrb (by omega), hindex, lowByte_setWidth]
    have hnext : (start + 1 ≤ 6 ∧ 6 < start + 1 + rest.length) ∨ (start = 6 ∨ s.LayFollowsMask) := by
      rcases hlay with hmask | hlay
      · omega
      · exact .inr (.inr hlay)
    obtain ⟨t, hrun, hset, htlm, htlay⟩ := ih (start + 1) ((s.writeSet start b).respond ⟨.ok, 0#32⟩) (by omega)
      (hnext.imp_right State.layFollowsMask_writeSet)
    exact ⟨t, runCommands_cons hexec rfl hrun, hset, htlm, htlay⟩

/-- Reading indices of `SET` answers their bytes and leaves the data (R35, R84). -/
theorem runCommands_srdb (as : List Nat) (s : State) (h : ∀ a ∈ as, a < 32) :
    ∃ u, runCommands (as.map fun a => .srdb (BitVec.ofNat 8 a)) s =
      some (u, as.map fun a => ⟨.ok, zextByte (s.byte .set a)⟩) ∧ s.SameData u := by
  induction as generalizing s with
  | nil => exact ⟨s, rfl, rfl, rfl, rfl⟩
  | cons a rest ih =>
    obtain ⟨ha, hrest⟩ := List.forall_mem_cons.mp h
    have hexec : exec (.srdb (BitVec.ofNat 8 a)) s = .next (s.respond ⟨.ok, zextByte (s.byte .set a)⟩) := by
      rw [exec_srdb (by rwa [toNat_ofNat_index ha]), toNat_ofNat_index ha]
    obtain ⟨u, hrun, hsame⟩ := ih (s.respond ⟨.ok, zextByte (s.byte .set a)⟩) hrest
    exact ⟨u, runCommands_cons hexec rfl (by simpa using hrun), hsame⟩

end SettingsImage

/-- Settles O34: `SLOAD` is 32 writes in a row from index 0, the mask among them, and `SDUMP` reads the same 32 indices. -/
theorem settingsImageLoadsAndDumps : Obligations.SettingsImageLoadsAndDumps := by
  intro bytes s hwf
  have hlen : bytes.length = 32 := of_decide_eq_true hwf
  obtain ⟨t, hload, hset, htlm, hlay⟩ := runCommands_sload bytes 0 s (by omega) (.inl (by omega))
  have hbyte : ∀ i, (h : i < bytes.length) → t.byte .set i = bytes[i] := fun i h => by
    simpa [State.byte, hset] using Memory.read_writeList_mem s.set 0 i bytes h
  obtain ⟨u, hdump, hsame⟩ := runCommands_srdb (List.range 32) t (by simp)
  have hanswers : (List.range 32).map (fun a => (⟨.ok, zextByte (t.byte .set a)⟩ : Response)) =
      bytes.map fun b => ⟨.ok, BitVec.ofNat 32 b.toNat⟩ := by
    refine List.ext_getElem (by simp [hlen]) fun a _ ha => ?_
    rw [List.length_map] at ha
    simp [hbyte a ha, zextByte]
  rw [hlen] at hload
  rw [hanswers] at hdump
  exact ⟨t, hload, hbyte, htlm, hlay, u, hdump, hsame⟩

end Sys2Proof.Machine

/-! O26, O27, O28, O29, O30 and O33: the settings commands (R60 to R85). One layer says what every getter and every setter
does in terms of its field's slot: a getter reports the slot's value, a setter replaces the slot's bits and leaves the rest,
and a getter after its setter reports what was stored. The obligations read that layer field by field. -/

namespace Sys2Proof.Machine

/-! ### A slot of a byte -/

section Slots

variable {byte lo width hi : Nat} (old : Byte) (v : Word)

/-- A slot's value is the byte shifted down to the slot, modulo its width (R60). -/
theorem Slot.toNat_extract (p : Slot) (b : Byte) : (p.extract b).toNat = b.toNat / 2 ^ p.lo % 2 ^ p.width := by
  have hlt : b.toNat / 2 ^ p.lo % 2 ^ p.width < 2 ^ 32 :=
    calc b.toNat / 2 ^ p.lo % 2 ^ p.width ≤ b.toNat / 2 ^ p.lo := Nat.mod_le _ _
      _ ≤ b.toNat := Nat.div_le_self _ _
      _ < 2 ^ 32 := by omega
  rw [Slot.extract, BitVec.toNat_setWidth, BitVec.extractLsb'_toNat, Nat.shiftRight_eq_div_pow, Nat.mod_eq_of_lt hlt]

/-- What was put in a slot that lies in the byte is there (R61). -/
theorem Slot.toNat_extract_insert {p : Slot} (hfit : p.lo + p.width ≤ 8) :
    (p.extract (p.insert old v)).toNat = v.toNat % 2 ^ p.width := by
  have hbits : (p.insert old v).extractLsb' p.lo p.width = v.setWidth p.width := by
    refine BitVec.eq_of_getLsbD_eq fun k hk => ?_
    rw [BitVec.getLsbD_extractLsb', Slot.getLsbD_insert p old v _ (by omega), if_pos (by omega)]
    simp [hk]
  rw [Slot.extract, hbits, BitVec.toNat_setWidth, BitVec.toNat_setWidth,
    Nat.mod_eq_of_lt ((Nat.mod_le _ _).trans_lt v.isLt)]

/-- New bits between `hi` bits above and `lo` bits below, which stay (R34). -/
theorem Slot.insert_middle (h : hi + width + lo = 8) :
    Slot.insert ⟨byte, lo, width⟩ old v =
      (old.extractLsb' (lo + width) hi ++ v.extractLsb' 0 width ++ old.extractLsb' 0 lo).cast h := by
  refine BitVec.eq_of_getLsbD_eq fun k hk => ?_
  rw [Slot.getLsbD_insert _ old v k hk]
  simp only [BitVec.getLsbD_cast, BitVec.getLsbD_append, BitVec.getLsbD_extractLsb']
  by_cases hlo : k < lo
  · simp [hlo, Nat.not_le.mpr hlo]
  by_cases hwidth : k - lo < width
  · simp [hlo, hwidth, Nat.le_of_not_lt hlo, show k < lo + width by omega]
  · have hk' : lo + width + (k - lo - width) = k := by omega
    simp [hlo, hwidth, hk', show ¬ k < lo + width by omega, show k - lo - width < hi by omega]

/-- A slot at the bottom of its byte (R34). -/
theorem Slot.insert_low (h : hi + width = 8) :
    Slot.insert ⟨byte, 0, width⟩ old v = (old.extractLsb' width hi ++ v.extractLsb' 0 width).cast h := by
  simp [Slot.insert_middle old v (lo := 0) h]

/-- A slot at the top of its byte (R34). -/
theorem Slot.insert_high (h : width + lo = 8) :
    Slot.insert ⟨byte, lo, width⟩ old v = (v.extractLsb' 0 width ++ old.extractLsb' 0 lo).cast h := by
  rw [Slot.insert_middle old v (hi := 0) (by omega), BitVec.zero_width_append, ← BitVec.cast_append_left (by omega),
    BitVec.cast_cast]

/-- A slot that is its byte (R34). -/
theorem Slot.insert_wholeByte : Slot.insert ⟨byte, 0, 8⟩ old v = lowByte v := by
  rw [Slot.insert_low old v (hi := 0) rfl, BitVec.zero_width_append, BitVec.cast_cast, BitVec.cast_eq, lowByte]

end Slots

/-! ### The read and write transforms, in numbers -/

section Transforms

variable (w : Word)

/-- The reserved code 3 reads 1 (R68). -/
theorem rateValue_eq : rateValue w = BitVec.ofNat 32 (if w.toNat = 3 then 1 else w.toNat) := by
  by_cases h : w = 3#32
  · simp [rateValue, h]
  · have hne : w.toNat ≠ 3 := fun h3 => h (BitVec.eq_of_toNat_eq h3)
    simp [rateValue, h, hne]

/-- The clamp is a minimum of the whole word (R72, R73). -/
theorem clampPayload_eq : clampPayload w = BitVec.ofNat 32 (min w.toNat 32) := by
  rw [clampPayload]
  split_ifs with h
  · simp [Nat.min_eq_left h]
  · simp [Nat.min_eq_right (Nat.le_of_not_le h)]

theorem toNat_clampPayload : (clampPayload w).toNat = min w.toNat 32 := by
  rw [clampPayload_eq, BitVec.toNat_ofNat, Nat.mod_eq_of_lt (by omega)]

theorem lowByte_ofNat (n : Nat) : lowByte (BitVec.ofNat 32 n) = BitVec.ofNat 8 n := by
  apply BitVec.eq_of_toNat_eq
  simp [lowByte, BitVec.extractLsb'_toNat, Nat.mod_mod_of_dvd]

/-- `(WDATA - 1) mod 2^32` (R79, R81). -/
theorem ofInt_toNat_sub_one : BitVec.ofInt 32 ((w.toNat : Int) - 1) = w - 1#32 := by
  bv_omega

end Transforms

/-! ### Every getter and every setter -/

/-- What a getter reports of its slot's value: the read transforms of R68, R72, R78 and R80. -/
def Setting.report : Setting → Nat → Nat
  | .rate, n => if n = 3 then 1 else n
  | .psz, n => min n 32
  | .nch, n | .chsz, n => n + 1
  | _, n => n

/-- What a setter puts in its slot: the write transforms of R73, R79 and R81. -/
def Setting.store : Setting → Word → Word
  | .psz, w => clampPayload w
  | .nch, w | .chsz, w => w - 1#32
  | _, w => w

/-- A getter answers what it reports of its slot's value. -/
theorem exec_settingGetter (f : Setting) (s : State) :
    exec (settingGetter f) s = .next (s.respond ⟨.ok, BitVec.ofNat 32 (f.report (s.getSetting f).toNat)⟩) := by
  cases f with
  | rate => exact congrArg s.answer (rateValue_eq _)
  | psz => exact congrArg s.answer (clampPayload_eq _)
  | nch | chsz => exact congrArg s.answer (by simp [Setting.report, BitVec.ofNat_add])
  | _ => exact congrArg s.answer (by simp [Setting.report])

/-- A setter puts its transformed operand in its slot and answers 0. -/
theorem exec_settingSetter (f : Setting) (w : Word) (s : State) :
    exec (settingSetter f w) s = .next ((s.putSetting f (f.store w)).respond ⟨.ok, 0#32⟩) := by
  cases f <;> rfl

/-- A write of one byte of `SET`, answered (OK, 0), has the frame of the statements (R16, R33). -/
theorem State.wroteSet_writeSet (s : State) (a : Nat) (v : Byte) :
    s.WroteSet ((s.writeSet a v).respond ⟨.ok, 0#32⟩) a v :=
  ⟨by simp, fun b hb => by simpa using State.writeSet_byte_other s v hb, rfl, rfl, rfl, rfl⟩

theorem State.toNat_getSetting_putSetting (f : Setting) (v : Word) (s : State) :
    ((s.putSetting f v).getSetting f).toNat = v.toNat % 2 ^ f.slot.width := by
  rw [State.getSetting, State.putSetting_eq, State.writeSet_byte_same, Slot.toNat_extract_insert _ _ f.slot_fits.2]

/-- R60: a getter reports the value `n` its bits of the byte hold, and changes nothing else. -/
theorem settingGetter_reads (f : Setting) {s : State} {n : Nat}
    (hvalue : (s.byte .set f.slot.byte).toNat / 2 ^ f.slot.lo % 2 ^ f.slot.width = n) :
    exec (settingGetter f) s = .next (s.respond ⟨.ok, BitVec.ofNat 32 (f.report n)⟩) := by
  rw [exec_settingGetter, State.getSetting, Slot.toNat_extract, hvalue]

/-- R60, R61: a setter writes its byte `b` with its bits replaced, and its getter then reports the value `n` stored there. -/
theorem settingSetter_writes (f : Setting) {s : State} {w : Word} {b : Byte}
    (hbyte : f.slot.insert (s.byte .set f.slot.byte) (f.store w) = b) :
    ∃ t, exec (settingSetter f w) s = .next t ∧ s.WroteSet t f.slot.byte b ∧
      ∀ n, (f.store w).toNat % 2 ^ f.slot.width = n →
        exec (settingGetter f) t = .next (t.respond ⟨.ok, BitVec.ofNat 32 (f.report n)⟩) := by
  refine ⟨_, exec_settingSetter f w s, hbyte ▸ State.wroteSet_writeSet s _ _, fun n hn => ?_⟩
  have hstored : (((s.putSetting f (f.store w)).respond ⟨.ok, 0#32⟩).getSetting f).toNat = n :=
    (State.toNat_getSetting_putSetting f _ s).trans hn
  rw [exec_settingGetter, hstored]

/-- `settingSetter_writes` without what the getter reports. -/
theorem settingSetter_wrote (f : Setting) {s : State} {w : Word} {b : Byte}
    (hbyte : f.slot.insert (s.byte .set f.slot.byte) (f.store w) = b) :
    ∃ t, exec (settingSetter f w) s = .next t ∧ s.WroteSet t f.slot.byte b := by
  obtain ⟨t, hexec, hwrote, -⟩ := settingSetter_writes f hbyte
  exact ⟨t, hexec, hwrote⟩

/-- R73: the payload setter stores `min(WDATA, 32)`, and the getter reads it. -/
theorem ssetPsz_writes (w : Word) (s : State) :
    ∃ t, exec (.ssetPsz w) s = .next t ∧ s.WroteSet t 2 (BitVec.ofNat 8 (min w.toNat 32)) ∧
      exec .sgetPsz t = .next (t.respond ⟨.ok, BitVec.ofNat 32 (min w.toNat 32)⟩) := by
  have hbyte : Setting.psz.slot.insert (s.byte .set 2) (clampPayload w) = BitVec.ofNat 8 (min w.toNat 32) := by
    rw [Setting.slot, Slot.insert_wholeByte, clampPayload_eq, lowByte_ofNat]
  obtain ⟨t, hexec, hwrote, hget⟩ := settingSetter_writes .psz hbyte
  have hvalue : (clampPayload w).toNat % 2 ^ 8 = min w.toNat 32 := by
    rw [toNat_clampPayload]
    omega
  have hreport : Setting.psz.report (min w.toNat 32) = min w.toNat 32 := by simp [Setting.report]
  exact ⟨t, hexec, hwrote, hreport ▸ hget _ hvalue⟩

/-! ### The raw bytes -/

/-- R84: a byte of `SET` is read as the number it is. -/
theorem exec_srdb_toNat {s : State} {idx : Byte} (h : idx.toNat < 32) :
    exec (.srdb idx) s = .next (s.respond ⟨.ok, BitVec.ofNat 32 (s.byte .set idx.toNat).toNat⟩) := by
  rw [exec_srdb h, zextByte, BitVec.ofNat_toNat]

/-- R84, R85: an index that `SET` does not have. -/
theorem exec_raw_of_le {s : State} {idx : Byte} (w : Word) (h : 32 ≤ idx.toNat) :
    exec (.srdb idx) s = .next (s.respond ⟨.errIndex, 0#32⟩) ∧
      exec (.swrb idx w) s = .next (s.respond ⟨.errIndex, 0#32⟩) :=
  ⟨if_pos h, if_pos h⟩

/-- R85: "`SWRB 6, b` has exactly the effect of `SSET_TMSK b`". -/
theorem exec_swrb_six (w : Word) (s : State) : exec (.swrb 6#8 w) s = exec (.ssetTmsk w) s := by
  have hbyte : Setting.tmsk.slot.insert (s.byte .set 6) w = lowByte w := Slot.insert_wholeByte _ _
  calc exec (.swrb 6#8 w) s = .next ((s.writeSet 6 (lowByte w)).respond ⟨.ok, 0#32⟩) := exec_swrb (by decide)
    _ = .next ((s.putSetting .tmsk w).respond ⟨.ok, 0#32⟩) := by rw [State.putSetting_eq, ← hbyte]; rfl
    _ = exec (.ssetTmsk w) s := rfl

/-! ### Writing the mask -/

/-- R86: `Layout` reads the bits 0..6 of the mask. -/
theorem layout_congr {m m' : Byte} (h : ∀ k < 7, m.getLsbD k = m'.getLsbD k) : layout m = layout m' := by
  have halarms : alarmCount m = alarmCount m' := by
    have hbits : m.extractLsb' 5 2 = m'.extractLsb' 5 2 :=
      BitVec.eq_of_getLsbD_eq fun k hk => by simp [BitVec.getLsbD_extractLsb', h (5 + k) (by omega)]
    rw [alarmCount, alarmCount, hbits]
  have hbit : ∀ row ∈ canonicalOrder, row.2.1 < 7 := by decide
  have hwalk (k : LayoutWalk) : canonicalOrder.foldl (walkField m) k = canonicalOrder.foldl (walkField m') k :=
    List.foldl_ext _ _ _ fun k row hrow => by rw [walkField, walkField, h _ (hbit row hrow)]
  rw [layout, layout, halarms, hwalk]

/-- R83, R86: "`mask[7]` is not read". -/
theorem layout_lowByte (w : Word) : layout (lowByte w) = layout ((w.extractLsb' 0 7).setWidth 8) :=
  layout_congr fun k hk => by simp [lowByte, hk, hk.trans (by decide : 7 < 8)]

section CanonicalForm

variable {n lo lo' : Nat} {m m' : Memory}

theorem Memory.wfFrom_cons {c : Host.Cell} :
    Memory.wfFrom n lo (c :: m) = true ↔ lo ≤ c.1 ∧ c.1 < n ∧ c.2 ≠ 0#8 ∧ Memory.wfFrom n (c.1 + 1) m = true := by
  simp [Memory.wfFrom, and_assoc]

theorem Memory.read_of_lt {a : Nat} (hwf : Memory.wfFrom n lo m = true) (ha : a < lo) : m.read a = 0#8 := by
  induction m generalizing lo with
  | nil => rfl
  | cons c rest ih =>
    obtain ⟨hlo, -, -, hrest⟩ := Memory.wfFrom_cons.mp hwf
    rw [Memory.read_cons, if_neg (by omega), ih hrest (by omega)]

/-- Where contents read alike, the first byte listed on one side reads nonzero on the other, so is listed there too. -/
theorem Memory.first_index_le {c d : Host.Cell} (hwf : Memory.wfFrom n lo (c :: m) = true)
    (hwf' : Memory.wfFrom n lo' (d :: m') = true)
    (hread : ∀ a < n, Memory.read (c :: m) a = Memory.read (d :: m') a) : d.1 ≤ c.1 := by
  obtain ⟨-, hc, hnonzero, -⟩ := Memory.wfFrom_cons.mp hwf
  obtain ⟨-, -, -, hrest⟩ := Memory.wfFrom_cons.mp hwf'
  by_contra hlt
  have hzero : Memory.read (d :: m') c.1 = 0#8 := by
    rw [Memory.read_cons, if_neg (by omega), Memory.read_of_lt hrest (by omega)]
  exact hnonzero (by simpa [hzero] using hread c.1 hc)

/-- Canonical contents that read alike are equal (log 4). -/
theorem Memory.ext_of_wfFrom (hwf : Memory.wfFrom n lo m = true) (hwf' : Memory.wfFrom n lo' m' = true)
    (hread : ∀ a < n, m.read a = m'.read a) : m = m' := by
  induction m generalizing lo lo' m' with
  | nil =>
    cases m' with
    | nil => rfl
    | cons d rest' =>
      obtain ⟨-, hd, hnonzero, -⟩ := Memory.wfFrom_cons.mp hwf'
      exact absurd (by simpa using (hread d.1 hd).symm) hnonzero
  | cons c rest ih =>
    obtain ⟨-, hc, hnonzero, hrest⟩ := Memory.wfFrom_cons.mp hwf
    cases m' with
    | nil => exact absurd (by simpa using hread c.1 hc) hnonzero
    | cons d rest' =>
      obtain ⟨-, -, -, hrest'⟩ := Memory.wfFrom_cons.mp hwf'
      have hindex : c.1 = d.1 := Nat.le_antisymm
        (Memory.first_index_le hwf' hwf fun a ha => (hread a ha).symm) (Memory.first_index_le hwf hwf' hread)
      obtain rfl : c = d := Prod.ext hindex (by simpa [hindex] using hread c.1 hc)
      have htail : ∀ a < n, Memory.read rest a = Memory.read rest' a := fun a ha => by
        by_cases hac : c.1 = a
        · rw [Memory.read_of_lt hrest (by omega), Memory.read_of_lt hrest' (by omega)]
        · simpa [hac] using hread a ha
      rw [ih hrest hrest' htail]

end CanonicalForm

/-- R16: writing the byte that stood there leaves the data. -/
theorem State.sameData_of_wroteSet {s t : State} {a : Nat} (hs : s.Inv) (ht : t.Inv)
    (h : s.WroteSet t a (s.byte .set a)) : s.SameData t := by
  obtain ⟨hsame, hother, htlm, -⟩ := h
  obtain ⟨hwf, -, hlay⟩ := hs
  obtain ⟨hwf', -, hlay'⟩ := ht
  have hbytes (b : Nat) : t.byte .set b = s.byte .set b := by
    by_cases hb : b = a
    · rw [hb, hsame]
    · exact hother b hb
  exact ⟨Memory.ext_of_wfFrom hwf' hwf fun b _ => hbytes b, htlm, by rw [hlay', hbytes, hlay]⟩

/-- R83: the bitmask setter stores the low byte and lays the record out by it in the same step. -/
theorem ssetTmsk_writes (w : Word) (s : State) :
    ∃ t, exec (.ssetTmsk w) s = .next t ∧ s.WroteSet t 6 (lowByte w) ∧ t.lay = layout (lowByte w) ∧
      t.lay = layout ((w.extractLsb' 0 7).setWidth 8) ∧ (s.Inv → lowByte w = s.byte .set 6 → s.SameData t) := by
  have hbyte : Setting.tmsk.slot.insert (s.byte .set 6) w = lowByte w := Slot.insert_wholeByte _ _
  obtain ⟨t, hexec, hwrote⟩ := settingSetter_wrote .tmsk hbyte
  have hlay : t.lay = layout (lowByte w) := by
    obtain ⟨-, -, -, hlay, -⟩ := hwrote
    exact hlay
  refine ⟨t, hexec, hwrote, hlay, hlay.trans (layout_lowByte w), fun hinv hsame => ?_⟩
  rw [hsame] at hwrote
  exact State.sameData_of_wroteSet hinv ((exec_commandEnd hexec).inv hinv) hwrote

/-! ### The obligations -/

/-- An opcode decodes as its row builds, whatever the operand fields (R45, R48). -/
theorem decodesTo_of_row {op : Byte} {i : Byte → Word → Instr} (h : (opRow? op).map OpRow.build = some i) :
    DecodesTo op i := by
  intro idx wdata
  obtain ⟨r, hrow, rfl⟩ := Option.map_eq_some_iff.mp h
  rw [decode_of_row (by rwa [opField_packCommand]), idxField_packCommand, wdataField_packCommand]

/-- Settles O26: each getter reports the number its bits of byte 0 hold. -/
theorem gettersOfSettingsByteZero : Obligations.GettersOfSettingsByteZero := by
  refine ⟨decodesTo_of_row rfl, decodesTo_of_row rfl, decodesTo_of_row rfl, decodesTo_of_row rfl, fun s => ?_⟩
  refine ⟨settingGetter_reads .dyn (by simp [Setting.slot]), settingGetter_reads .ack rfl, settingGetter_reads .ackp rfl, ?_,
    exec_srdb_toNat (by decide)⟩
  rw [← apply_ite (BitVec.ofNat 32) _ 1]
  exact settingGetter_reads .rate rfl

/-- Settles O27: each getter reports the number its bits hold; what `SSET_PSZ` stores is its own clamp. -/
theorem gettersOfSettingsBytesOneToSix : Obligations.GettersOfSettingsBytesOneToSix := by
  refine ⟨decodesTo_of_row rfl, decodesTo_of_row rfl, decodesTo_of_row rfl, decodesTo_of_row rfl, decodesTo_of_row rfl,
    decodesTo_of_row rfl, decodesTo_of_row rfl, fun s => ?_⟩
  have hlow (b : Byte) (n : Nat) : b.toNat / 2 ^ 0 % 2 ^ n = b.toNat % 2 ^ n := by simp
  have hwhole (b : Byte) : b.toNat / 2 ^ 0 % 2 ^ 8 = b.toNat := by omega
  have hhigh (b : Byte) : b.toNat / 2 ^ 5 % 2 ^ 3 = b.toNat / 32 := by omega
  refine ⟨settingGetter_reads .chan (hwhole _), settingGetter_reads .psz (hwhole _), settingGetter_reads .freq (hwhole _),
    settingGetter_reads .rdly (hlow _ 4), settingGetter_reads .nch (hlow _ 5), settingGetter_reads .chsz (hhigh _),
    settingGetter_reads .tmsk (hwhole _), fun w t hset => ?_⟩
  obtain ⟨t', hset', ⟨hbyte, -⟩, hget⟩ := ssetPsz_writes w s
  obtain rfl : t' = t := Host.Outcome.next.inj (hset'.symm.trans hset)
  have hvalue : (t'.byte .set 2).toNat = min w.toNat 32 := by
    rw [hbyte, BitVec.toNat_ofNat]
    omega
  rwa [hvalue]

/-- Settles O28: each setter is its slot between the bits that stay, and a stored 3 is a reported 1. -/
theorem settersOfSettingsByteZero : Obligations.SettersOfSettingsByteZero := by
  refine ⟨decodesTo_of_row rfl, decodesTo_of_row rfl, decodesTo_of_row rfl, decodesTo_of_row rfl, fun s w => ?_⟩
  refine ⟨settingSetter_wrote .dyn (Slot.insert_low (hi := 7) _ _ rfl),
    settingSetter_wrote .ack (Slot.insert_middle (hi := 6) _ _ rfl),
    settingSetter_wrote .ackp (Slot.insert_middle (hi := 5) _ _ rfl), ?_⟩
  obtain ⟨t, hexec, hwrote, hget⟩ := settingSetter_writes .rate (s := s) (w := w) (Slot.insert_middle (hi := 3) _ _ rfl)
  exact ⟨t, hexec, hwrote, hget 3⟩

/-- Settles O29: bytes 1 and 3 are whole slots, `RDLY` is the bottom of byte 4, and `ssetPsz_writes`. -/
theorem settersOfSettingsBytesOneToFour : Obligations.SettersOfSettingsBytesOneToFour := by
  refine ⟨decodesTo_of_row rfl, decodesTo_of_row rfl, decodesTo_of_row rfl, decodesTo_of_row rfl, fun s w => ?_⟩
  exact ⟨settingSetter_wrote .chan (Slot.insert_wholeByte _ _), ssetPsz_writes w s,
    settingSetter_wrote .freq (Slot.insert_wholeByte _ _), settingSetter_wrote .rdly (Slot.insert_low (hi := 4) _ _ rfl)⟩

/-- Settles O30: `NCH` and `CHSZ` are the bottom and the top of byte 5, and `ssetTmsk_writes`. -/
theorem settersOfSettingsBytesFiveAndSix : Obligations.SettersOfSettingsBytesFiveAndSix := by
  refine ⟨decodesTo_of_row rfl, decodesTo_of_row rfl, decodesTo_of_row rfl, fun s w => ?_⟩
  dsimp only
  rw [ofInt_toNat_sub_one]
  refine ⟨?_, ?_, ?_⟩
  · obtain ⟨t, hexec, hwrote, hget⟩ := settingSetter_writes .nch (s := s) (w := w) (Slot.insert_low (hi := 3) _ _ rfl)
    exact ⟨t, hexec, hwrote, hget _ rfl⟩
  · obtain ⟨t, hexec, hwrote, hget⟩ := settingSetter_writes .chsz (s := s) (w := w) (Slot.insert_high _ _ rfl)
    exact ⟨t, hexec, hwrote, hget _ rfl⟩
  · exact ssetTmsk_writes w s

/-- Settles O33, from the raw read and write below 32 and from 32 on. -/
theorem rawSettingsAccess : Obligations.RawSettingsAccess := by
  refine ⟨decodesTo_of_row rfl, decodesTo_of_row rfl, fun s idx w => ⟨exec_raw_of_le w, fun h => ?_, exec_swrb_six w s⟩⟩
  exact ⟨exec_srdb_toNat h, _, exec_swrb h, State.wroteSet_writeSet s _ _⟩

end Sys2Proof.Machine

/-! O37: the layout queries (R91 to R93). One layer says what the walk of R86 leaves in each field's entry and what the packed
word of `TOFF` holds; the queries read that layer. -/

namespace Sys2Proof.Machine

/-! ### The entry of every field -/

/-- Whether the mask enables a field: its own bit, or for the alarms a selector that is not 0 (R22). -/
def maskEnables (mask : Byte) : Field → Bool
  | .alm => decide (alarmCount mask ≠ 0)
  | f => mask.getLsbD (fieldNumber f)

theorem maskEnables_wholeByte (mask : Byte) {f : Field} (hf : f ≠ .alm) :
    maskEnables mask f = mask.getLsbD (fieldNumber f) := by
  cases f <;> trivial

theorem maskEnables_alm (mask : Byte) : maskEnables mask .alm = decide (mask.extractLsb' 5 2 ≠ 0#2) := by
  rw [maskEnables, alarmCount, decide_eq_decide]
  exact not_congr (BitVec.toNat_eq (y := 0#2)).symm

/-- The bits an enabled field takes: its whole bytes, or one bit per alarm (R86, R87). -/
def fieldBits (mask : Byte) : Field → Nat
  | .alm => alarmCount mask
  | f => 8 * fieldBytes f

theorem fieldBits_lt (mask : Byte) (f : Field) : fieldBits mask f < 2 ^ 8 := by
  have halarms : alarmCount mask < 2 ^ 2 := BitVec.isLt _
  cases f <;> simp only [fieldBits, fieldBytes] <;> omega

/-- The entry of a field that starts at byte `off`, if the mask enables it (R86). -/
def placedEntry (mask : Byte) (f : Field) (off : Nat) : LayEntry :=
  if maskEnables mask f then ⟨true, off, 0, fieldBits mask f⟩ else .disabled

theorem placedEntry_en (mask : Byte) (f : Field) (off : Nat) : (placedEntry mask f off).en = maskEnables mask f := by
  unfold placedEntry
  cases maskEnables mask f <;> rfl

theorem Lay.entry_setEntry (l : Lay) (f g : Field) (e : LayEntry) :
    (l.setEntry f e).entry g = if g = f then e else l.entry g := by
  cases f <;> cases g <;> rfl

/-- The rows of R86 name each whole-byte field once, with its mask bit and its size. -/
theorem canonicalOrder_eq :
    canonicalOrder = [.bat, .cur, .temp, .rpm, .gps].map fun f => (f, fieldNumber f, fieldBytes f) := rfl

/-- A turn of the loop places its own field at the current offset and keeps the other entries. -/
theorem walkField_entry (mask : Byte) (k : LayoutWalk) {f : Field} (hf : f ≠ .alm) (g : Field) :
    (walkField mask k (f, fieldNumber f, fieldBytes f)).lay.entry g =
      if g = f then placedEntry mask f k.off else k.lay.entry g := by
  have hbits : fieldBits mask f = 8 * fieldBytes f := by cases f <;> trivial
  rw [walkField, placedEntry, maskEnables_wholeByte mask hf, hbits]
  split <;> exact Lay.entry_setEntry _ _ _ _

/-- After the loop each field it meets is placed somewhere. -/
theorem foldl_walkField_entry (mask : Byte) {f : Field} (fs : List Field) (halm : .alm ∉ fs) (k : LayoutWalk)
    (h : f ∈ fs ∨ ∃ off, k.lay.entry f = placedEntry mask f off) :
    ∃ off, ((fs.map fun g => (g, fieldNumber g, fieldBytes g)).foldl (walkField mask) k).lay.entry f =
      placedEntry mask f off := by
  induction fs generalizing k with
  | nil => simpa using h
  | cons g gs ih =>
    obtain ⟨hg, hgs⟩ : .alm ≠ g ∧ .alm ∉ gs := by simpa using halm
    refine ih hgs _ ?_
    rw [walkField_entry mask k hg.symm]
    by_cases hfg : f = g
    · exact .inr ⟨k.off, by rw [if_pos hfg, hfg]⟩
    · simpa [hfg] using h

/-- The loop leaves no free bit: every field it places is a whole number of bytes (R88, conflict C3). -/
theorem foldl_walkField_free (mask : Byte) (rows : List (Field × Nat × Nat)) (k : LayoutWalk) (h : k.free = 0) :
    (rows.foldl (walkField mask) k).free = 0 := by
  induction rows generalizing k with
  | nil => exact h
  | cons row rows ih =>
    refine ih _ ?_
    unfold walkField
    split
    · rfl
    · exact h

/-- Without a free bit the alarms, where there are any, open a byte of their own. -/
theorem placeAlarms_entry (mask : Byte) {k : LayoutWalk} (hfree : k.free = 0) (f : Field) :
    (placeAlarms (alarmCount mask) k).lay.entry f = if f = .alm then placedEntry mask .alm k.off else k.lay.entry f := by
  by_cases hcount : alarmCount mask = 0
  · simp [placeAlarms, hcount, placedEntry, maskEnables, Lay.entry_setEntry]
  · simp [placeAlarms, hcount, hfree, placedEntry, maskEnables, fieldBits, Lay.entry_setEntry]

/-- R86: every entry is all zero, or whole from bit 0 of some byte, as the mask says. -/
theorem layout_entry (mask : Byte) (f : Field) : ∃ off, (layout mask).entry f = placedEntry mask f off := by
  have hsize (l : Lay) (n : Nat) : ({ l with size := n } : Lay).entry f = l.entry f := by cases f <;> rfl
  rw [layout, hsize, placeAlarms_entry mask (foldl_walkField_free mask _ _ rfl)]
  by_cases hf : f = .alm
  · exact ⟨_, by rw [if_pos hf, hf]⟩
  · rw [if_neg hf, canonicalOrder_eq]
    exact foldl_walkField_entry mask _ (by decide) _ (.inl (by cases f <;> trivial))

theorem layout_entry_en (mask : Byte) (f : Field) : ((layout mask).entry f).en = maskEnables mask f := by
  obtain ⟨off, hentry⟩ := layout_entry mask f
  rw [hentry, placedEntry_en]

theorem layout_entry_of_disabled {mask : Byte} {f : Field} (h : ((layout mask).entry f).en = false) :
    (layout mask).entry f = .disabled := by
  obtain ⟨off, hentry⟩ := layout_entry mask f
  rw [hentry, placedEntry_en] at h
  rw [hentry, placedEntry, h]
  rfl

/-! ### The data of the queries -/

/-- The offset, the bit and the width are in the range of the bits `TOFF` packs them in (R92). -/
structure LayEntry.FitsWord (e : LayEntry) : Prop where
  off : e.off < 2 ^ 8
  bit : e.bit < 2 ^ 3
  width : e.width < 2 ^ 8

/-- An entry of a layout starts inside the record, at bit 0 of its byte. -/
theorem layout_entry_fitsWord (mask : Byte) (f : Field) : ((layout mask).entry f).FitsWord := by
  have hfits := layout_entry_fits mask f
  have hsize := layout_size_le mask
  obtain ⟨off, hentry⟩ := layout_entry mask f
  rw [hentry, placedEntry] at hfits ⊢
  split_ifs at hfits ⊢
  · have hoff : off + fieldBytes f ≤ (layout mask).size := hfits rfl
    exact ⟨show off < 2 ^ 8 by omega, Nat.two_pow_pos 3, fieldBits_lt mask f⟩
  · exact ⟨Nat.two_pow_pos 8, Nat.two_pow_pos 3, Nat.two_pow_pos 8⟩

theorem toNat_append_eq_add {m n : Nat} (x : BitVec m) (y : BitVec n) : (x ++ y).toNat = 2 ^ n * x.toNat + y.toNat := by
  rw [BitVec.toNat_append, Nat.shiftLeft_eq, Nat.mul_comm, Nat.two_pow_add_eq_or_of_lt y.isLt]

/-- R92: the packed entry is a number with the offset in byte 0, the bit in byte 1, the width in byte 2 and the enable above. -/
theorem LayEntry.FitsWord.toNat_word {e : LayEntry} (h : e.FitsWord) :
    e.word.toNat = 2 ^ 24 * e.en.toNat + 2 ^ 16 * e.width + 2 ^ 8 * e.bit + e.off := by
  obtain ⟨hoff, hbit, hwidth⟩ := h
  simp only [LayEntry.word, toNat_append_eq_add, BitVec.toNat_ofNat, BitVec.toNat_ofBool, Nat.mod_eq_of_lt hoff,
    Nat.mod_eq_of_lt hbit, Nat.mod_eq_of_lt hwidth]
  omega

/-- R92: each part of the entry is read back from its bits of the packed word, and the seven bits on top are 0. -/
theorem LayEntry.FitsWord.slices_word {e : LayEntry} (h : e.FitsWord) :
    (e.word.extractLsb' 0 8).toNat = e.off ∧ (e.word.extractLsb' 8 8).toNat = e.bit ∧
      (e.word.extractLsb' 16 8).toNat = e.width ∧ e.word.getLsbD 24 = e.en ∧ e.word.extractLsb' 25 7 = 0#7 := by
  have hword := h.toNat_word
  have hslice (lo n : Nat) : (e.word.extractLsb' lo n).toNat = e.word.toNat / 2 ^ lo % 2 ^ n := by
    rw [BitVec.extractLsb'_toNat, Nat.shiftRight_eq_div_pow]
  have hen : e.en.toNat ≤ 1 := e.en.toNat_le
  obtain ⟨hoff, hbit, hwidth⟩ := h
  refine ⟨by rw [hslice]; omega, by rw [hslice]; omega, by rw [hslice]; omega, ?_, ?_⟩
  · have hbit24 : e.word.toNat / 2 ^ 24 % 2 = e.en.toNat := by omega
    rw [← BitVec.testBit_toNat, Nat.testBit_eq_decide_div_mod_eq, hbit24]
    cases e.en <;> rfl
  · apply BitVec.eq_of_toNat_eq
    rw [hslice, BitVec.toNat_ofNat]
    omega

theorem boolWord_eq (b : Bool) : boolWord b = BitVec.ofNat 32 b.toNat := by cases b <;> rfl

/-! ### The queries -/

theorem fieldOf?_eq_some {idx : Byte} {f : Field} (h : idx.toNat = fieldNumber f) : fieldOf? idx = some f := by
  rw [fieldOf?, h]
  cases f <;> rfl

theorem fieldOf?_eq_none {idx : Byte} (h : 6 ≤ idx.toNat) : fieldOf? idx = none := by
  unfold fieldOf?
  obtain ⟨n, hn⟩ := Nat.exists_eq_add_of_le' h
  rw [hn]
  rfl

theorem exists_wholeByteField {n : Nat} (h : n < 5) : ∃ f : Field, f ≠ .alm ∧ n = fieldNumber f := by
  match n, h with
  | 0, _ => exact ⟨.bat, by decide⟩
  | 1, _ => exact ⟨.cur, by decide⟩
  | 2, _ => exact ⟨.temp, by decide⟩
  | 3, _ => exact ⟨.rpm, by decide⟩
  | 4, _ => exact ⟨.gps, by decide⟩

section Queries

variable {s : State} {idx : Byte} {f : Field}

theorem State.query_of_field (value : LayEntry → Word) (h : idx.toNat = fieldNumber f) :
    s.query idx value = .next (s.respond ⟨.ok, value (s.lay.entry f)⟩) :=
  State.query_eq_next.mpr (.inr ⟨f, fieldOf?_eq_some h, rfl⟩)

theorem State.query_of_six_le (value : LayEntry → Word) (h : 6 ≤ idx.toNat) :
    s.query idx value = .next (s.respond ⟨.errIndex, 0#32⟩) :=
  State.query_eq_next.mpr (.inl ⟨fieldOf?_eq_none h, rfl⟩)

/-- R91: where `LAY` follows the mask, `TEN` answers what the mask says of the field. -/
theorem exec_ten (hlay : s.LayFollowsMask) (hidx : idx.toNat = fieldNumber f) :
    exec (.ten idx) s = .next (s.respond ⟨.ok, boolWord (maskEnables (s.byte .set 6) f)⟩) := by
  rw [← layout_entry_en, ← hlay]
  exact State.query_of_field (fun e => boolWord e.en) hidx

/-- R92: `TOFF` answers the field's packed entry. -/
theorem exec_toff (hidx : idx.toNat = fieldNumber f) :
    exec (.toff idx) s = .next (s.respond ⟨.ok, (s.lay.entry f).word⟩) :=
  State.query_of_field LayEntry.word hidx

/-- R93: where `LAY` follows the mask, `TSIZE` answers the size, which no word cuts off. -/
theorem exec_tsize (hlay : s.LayFollowsMask) :
    ∃ d : Word, exec .tsize s = .next (s.respond ⟨.ok, d⟩) ∧ d.toNat = s.lay.size ∧ d.toNat ≤ 17 := by
  have hsize : s.lay.size ≤ 17 := hlay ▸ layout_size_le _
  have hword : (BitVec.ofNat 32 s.lay.size).toNat = s.lay.size := by
    rw [BitVec.toNat_ofNat, Nat.mod_eq_of_lt (by omega)]
  exact ⟨BitVec.ofNat 32 s.lay.size, rfl, hword, hword.trans_le hsize⟩

end Queries

/-- Settles O37: `TEN` answers `maskEnables`; every entry of a layout fits the bits `TOFF` packs it in, and the size its word. -/
theorem layoutQueries : Obligations.LayoutQueries := by
  refine ⟨decodesTo_of_row rfl, decodesTo_of_row rfl, decodesTo_of_row rfl, fun s idx hinv => ?_⟩
  obtain ⟨-, -, hlay⟩ := hinv
  refine ⟨fun h => ⟨State.query_of_six_le (fun e => boolWord e.en) h, State.query_of_six_le LayEntry.word h⟩,
    fun hidx => ?_, ?_, fun f hidx => ⟨_, exec_toff hidx, ?_⟩, exec_tsize hlay⟩
  · obtain ⟨f, hwhole, hf⟩ := exists_wholeByteField hidx
    rw [exec_ten hlay hf, boolWord_eq, maskEnables_wholeByte _ hwhole, hf]
  · rw [exec_ten hlay (f := .alm) rfl, maskEnables_alm, boolWord]
    simp only [decide_eq_true_eq]
  · have hfits : (s.lay.entry f).FitsWord := hlay ▸ layout_entry_fitsWord _ f
    obtain ⟨hoff, hbit, hwidth, henable, hreserved⟩ := hfits.slices_word
    refine ⟨hoff, hbit, hwidth, henable, hreserved, fun hen => ?_⟩
    have hdisabled : s.lay.entry f = .disabled := by
      rw [hlay] at hen ⊢
      exact layout_entry_of_disabled hen
    rw [hdisabled]
    rfl

end Sys2Proof.Machine

/-! O42 and O48: the exponent search follows its table (R102), and the codes pack into bytes one to one (R100, R101). The
search rests on two facts about rounding, that `|roundHAZ(x * 2^e)|` never decreases as `e` grows and that it returns an
integer unchanged, and on one lemma that says which exponent the loop keeps. -/

namespace Sys2Proof.Machine

/-! ### Rounding -/

theorem halfUp_mono (d : Nat) {a b : Nat} (h : a ≤ b) : halfUp a d ≤ halfUp b d :=
  Nat.div_le_div_right (by omega)

theorem halfUp_mul_two_pow (k d : Nat) : halfUp (k * 2 ^ d) d = k := by
  have hnum : 2 * (k * 2 ^ d) + 2 ^ d = 2 ^ d * (2 * k + 1) := by ring
  rw [halfUp, pow_succ, hnum, Nat.mul_div_mul_left _ _ (Nat.two_pow_pos d)]
  omega

/-- Scaling keeps the sign, and the magnitude is rounded (R13). -/
theorem roundHAZ_scale (x : Dyad) (e : Nat) :
    roundHAZ (x.scale e) =
      if 0 ≤ x.num then (halfUp (x.num.natAbs * 2 ^ e) x.den : ℤ) else -(halfUp (x.num.natAbs * 2 ^ e) x.den : ℤ) := by
  have hsign : 0 ≤ x.num * 2 ^ e ↔ 0 ≤ x.num := mul_nonneg_iff_of_pos_right (by positivity)
  simp only [roundHAZ, Dyad.scale, hsign, Int.natAbs_mul, Int.natAbs_pow, Int.reduceAbs]

theorem Dyad.isInt_iff {y : Dyad} {k : ℤ} : y.isInt k = true ↔ y.toRat = k := by
  rw [Dyad.isInt, decide_eq_true_iff, Dyad.toRat, div_eq_iff (by positivity)]
  norm_cast

theorem Dyad.toRat_scale (x : Dyad) (e : Nat) : (x.scale e).toRat = x.toRat * 2 ^ e := by
  simp only [Dyad.toRat, Dyad.scale, Int.cast_mul, Int.cast_pow, Int.cast_ofNat]
  ring

/-- Rounding returns an integer unchanged. -/
theorem roundHAZ_of_isInt {y : Dyad} {k : ℤ} (h : y.isInt k = true) : roundHAZ y = k := by
  have hnum : y.num = k * 2 ^ y.den := of_decide_eq_true h
  have hsign : 0 ≤ k * 2 ^ y.den ↔ 0 ≤ k := mul_nonneg_iff_of_pos_right (by positivity)
  simp only [roundHAZ, hnum, hsign, Int.natAbs_mul, Int.natAbs_pow, Int.reduceAbs, halfUp_mul_two_pow]
  split <;> omega

section Exponents

variable {x : Dyad} {lo hi : ℤ} {e e' : Nat}

/-- An exact exponent is one where the loop's test `m = y` succeeds (R102). -/
theorem exactAt_iff_isInt : exactAt x e ↔ (x.scale e).isInt (roundHAZ (x.scale e)) = true := by
  constructor
  · rintro ⟨k, hk⟩
    have hint : (x.scale e).isInt k = true := Dyad.isInt_iff.mpr (x.toRat_scale e ▸ hk)
    rwa [roundHAZ_of_isInt hint]
  · exact fun h => ⟨_, x.toRat_scale e ▸ Dyad.isInt_iff.mp h⟩

theorem roundHAZ_of_exactAt (h : exactAt x e) : (roundHAZ (x.scale e) : ℚ) = x.toRat * 2 ^ e := by
  rw [← Dyad.toRat_scale, Dyad.isInt_iff.mp (exactAt_iff_isInt.mp h)]

/-- In range at an exponent, so at every smaller one (R102). -/
theorem inRange_of_le (hlo : lo ≤ 0) (hhi : 0 ≤ hi) (hle : e ≤ e') (h : inRange x lo hi e') : inRange x lo hi e := by
  have hmono : halfUp (x.num.natAbs * 2 ^ e) x.den ≤ halfUp (x.num.natAbs * 2 ^ e') x.den :=
    halfUp_mono _ (Nat.mul_le_mul_left _ (Nat.pow_le_pow_right two_pos hle))
  rw [inRange, roundHAZ_scale] at h ⊢
  split_ifs at h ⊢ <;> omega

/-- Exact at an exponent, so at every greater one (R102). -/
theorem exactAt_of_le (hle : e ≤ e') (h : exactAt x e) : exactAt x e' := by
  obtain ⟨k, hk⟩ := h
  obtain ⟨d, rfl⟩ := Nat.exists_eq_add_of_le hle
  exact ⟨k * 2 ^ d, by rw [pow_add, ← mul_assoc, hk]; norm_cast⟩

end Exponents

/-! ### The exponent search -/

/-- The code of a number at an exponent: the rounded mantissa beside it (R102). -/
def Dyad.codeAt (x : Dyad) (e : Nat) : FloatCode := ⟨roundHAZ (x.scale e), e⟩

/-- The exponent the loop keeps: one in range, where it returned early or which is the largest in range, and before which
it did not return. -/
structure Chosen (p : ExpPolicy) (x : Dyad) (lo hi : ℤ) (cands : List Nat) (e : Nat) : Prop where
  mem : e ∈ cands
  in_range : inRange x lo hi e
  exact_or_largest : (p = .smallestExact ∧ exactAt x e) ∨ ∀ e' ∈ cands, inRange x lo hi e' → e' ≤ e
  inexact_before : p = .smallestExact → ∀ e' ∈ cands, e' < e → ¬ exactAt x e'

section Search

variable {p : ExpPolicy} {x : Dyad} {lo hi : ℤ} {cands : List Nat} {best : Option FloatCode} {e : Nat}

theorem searchFrom_cons_of_not_inRange (h : ¬ inRange x lo hi e) : searchFrom p x lo hi (e :: cands) best = best :=
  if_pos (by rw [inRange] at h; omega)

theorem searchFrom_cons_of_return (h : inRange x lo hi e) (hreturn : p = .smallestExact ∧ exactAt x e) :
    searchFrom p x lo hi (e :: cands) best = some (x.codeAt e) := by
  rw [exactAt_iff_isInt] at hreturn
  exact (if_neg (by rw [inRange] at h; omega)).trans (if_pos hreturn)

theorem searchFrom_cons_of_continue (h : inRange x lo hi e) (hcontinue : ¬ (p = .smallestExact ∧ exactAt x e)) :
    searchFrom p x lo hi (e :: cands) best = searchFrom p x lo hi cands (some (x.codeAt e)) := by
  rw [exactAt_iff_isInt] at hcontinue
  exact (if_neg (by rw [inRange] at h; omega)).trans (if_neg hcontinue)

theorem searchFrom_of_none_inRange (h : ∀ e ∈ cands, ¬ inRange x lo hi e) : searchFrom p x lo hi cands best = best := by
  cases cands with
  | nil => rfl
  | cons e cands => exact searchFrom_cons_of_not_inRange (h e List.mem_cons_self)

/-- What the loop finds in ascending candidates, whatever the best code so far. -/
theorem searchFrom_chosen (hasc : cands.Pairwise (· < ·)) (hlo : lo ≤ 0) (hhi : 0 ≤ hi)
    (hin : ∃ e ∈ cands, inRange x lo hi e) :
    ∃ e, Chosen p x lo hi cands e ∧ searchFrom p x lo hi cands best = some (x.codeAt e) := by
  induction cands generalizing best with
  | nil => simp at hin
  | cons a rest ih =>
    obtain ⟨ha, hrest⟩ := List.pairwise_cons.mp hasc
    have hfirst : ∀ e ∈ a :: rest, a ≤ e := List.forall_mem_cons.mpr ⟨le_rfl, fun e he => (ha e he).le⟩
    have hain : inRange x lo hi a := by
      obtain ⟨e, he, hein⟩ := hin
      exact inRange_of_le hlo hhi (hfirst e he) hein
    by_cases hreturn : p = .smallestExact ∧ exactAt x a
    · exact ⟨a, ⟨List.mem_cons_self, hain, .inl hreturn, fun _ e he hlt => absurd (hfirst e he) hlt.not_ge⟩,
        searchFrom_cons_of_return hain hreturn⟩
    rw [searchFrom_cons_of_continue hain hreturn]
    by_cases hmore : ∃ e ∈ rest, inRange x lo hi e
    · obtain ⟨e, ⟨hmem, hein, hlast, hbefore⟩, hsearch⟩ := ih (best := some (x.codeAt a)) hrest hmore
      refine ⟨e, ⟨List.mem_cons_of_mem _ hmem, hein, hlast.imp_right fun hmax => ?_, fun hp => ?_⟩, hsearch⟩
      · exact List.forall_mem_cons.mpr ⟨fun _ => (ha e hmem).le, hmax⟩
      · exact List.forall_mem_cons.mpr ⟨fun _ hexact => hreturn ⟨hp, hexact⟩, hbefore hp⟩
    · have hout : ∀ e ∈ rest, ¬ inRange x lo hi e := fun e he hein => hmore ⟨e, he, hein⟩
      refine ⟨a, ⟨List.mem_cons_self, hain, .inr ?_, fun _ e he hlt => absurd (hfirst e he) hlt.not_ge⟩,
        searchFrom_of_none_inRange hout⟩
      exact List.forall_mem_cons.mpr ⟨fun _ => le_rfl, fun e he hein => absurd hein (hout e he)⟩

/-- A search that does not return early keeps the largest exponent in range (R102). -/
theorem Chosen.largest (h : Chosen p x lo hi cands e) (hno : ¬ (p = .smallestExact ∧ exactAt x e)) :
    ∀ e' ∈ cands, inRange x lo hi e' → e' ≤ e :=
  h.exact_or_largest.resolve_left hno

/-- Where some exponent in range is exact, so is the one that the search keeps, under both policies (R102, R103). -/
theorem Chosen.exactAt_of_exists (h : Chosen p x lo hi cands e) (hex : ∃ e ∈ cands, inRange x lo hi e ∧ exactAt x e) :
    exactAt x e := by
  obtain ⟨e₀, hmem, hin, hexact⟩ := hex
  obtain ⟨-, hreturn⟩ | hmax := h.exact_or_largest
  · exact hreturn
  · exact exactAt_of_le (hmax e₀ hmem hin) hexact

end Search

/-- Settles O42, by which exponent the loop keeps: without an exact one in range it is the largest under either policy, so
the same. -/
theorem searchFollowsItsTable : Obligations.SearchFollowsItsTable := by
  intro x cands lo hi hasc hlo hhi
  have hchosen (p : ExpPolicy) (hin : ∃ e ∈ cands, inRange x lo hi e) :
      ∃ e, Chosen p x lo hi cands e ∧ search p x cands lo hi = some (x.codeAt e) :=
    searchFrom_chosen hasc hlo hhi hin
  refine ⟨fun e e' hle => ⟨inRange_of_le hlo hhi hle, exactAt_of_le hle⟩,
    fun hout p => searchFrom_of_none_inRange hout, fun hex => ?_, fun hin hinexact => ?_⟩
  · have hin : ∃ e ∈ cands, inRange x lo hi e := hex.imp fun _ ⟨hmem, hin, _⟩ => ⟨hmem, hin⟩
    obtain ⟨e, he, hsmallest⟩ := hchosen .smallestExact hin
    obtain ⟨f, hf, hlargest⟩ := hchosen .largestFit hin
    have hexact := he.exactAt_of_exists hex
    refine ⟨⟨_, hsmallest, he.mem, he.in_range, hexact, roundHAZ_of_exactAt hexact, ?_⟩,
      ⟨_, hlargest, hf.mem, hf.in_range, roundHAZ_of_exactAt (hf.exactAt_of_exists hex), hf.largest (by simp)⟩⟩
    exact fun e' hmem _ hexact' => le_of_not_gt fun hlt => he.inexact_before rfl e' hmem hlt hexact'
  · have hlargest {p : ExpPolicy} {e : Nat} (h : Chosen p x lo hi cands e) :
        ∀ e' ∈ cands, inRange x lo hi e' → e' ≤ e :=
      h.largest fun hreturn => hinexact e h.mem h.in_range hreturn.2
    obtain ⟨f, hf, -⟩ := hchosen .largestFit hin
    refine ⟨x.codeAt f, fun p => ?_, hf.mem, hf.in_range, rfl, hlargest hf⟩
    obtain ⟨e, he, hsearch⟩ := hchosen p hin
    have hsame : e = f := (hlargest hf e he.mem he.in_range).antisymm (hlargest he f hf.mem hf.in_range)
    rw [hsearch, hsame]

/-! ### Packing -/

/-- Both formats store the mantissa in two's complement and read it back with its sign (R100, R101). -/
theorem toInt_ofInt_slices {hi lo : Nat} (hpos : 0 < hi + lo) {m : ℤ} (hle : -2 ^ (hi + lo - 1) ≤ m)
    (hlt : m < 2 ^ (hi + lo - 1)) :
    ((BitVec.ofInt (hi + lo) m).extractLsb' lo hi ++ (BitVec.ofInt (hi + lo) m).extractLsb' 0 lo).toInt = m := by
  rw [BitVec.extractLsb'_append_extractLsb'_eq_extractLsb' (Nat.zero_add lo).symm, BitVec.extractLsb'_eq_self,
    BitVec.toInt_ofInt_eq_self hpos hle hlt]

theorem unpack3_pack3 (o : F3Order) {c : FloatCode} (h : c.IsFloat3) :
    ∃ b0 b1 b2, pack3 o c = [b0, b1, b2] ∧ unpack3 o b0 b1 b2 = c := by
  obtain ⟨hmlo, hmhi, he⟩ := h
  have hm := toInt_ofInt_slices (hi := 8) (lo := 8) (by decide) hmlo (Int.lt_add_one_of_le hmhi)
  have hexp : (BitVec.ofNat 8 c.e).toNat = c.e := Nat.mod_eq_of_lt (Nat.lt_succ_of_le he)
  cases o <;> exact ⟨_, _, _, rfl, congrArg₂ FloatCode.mk hm hexp⟩

theorem pack3_unpack3 (o : F3Order) (b0 b1 b2 : Byte) :
    (unpack3 o b0 b1 b2).IsFloat3 ∧ pack3 o (unpack3 o b0 b1 b2) = [b0, b1, b2] := by
  have hcode (t : BitVec 16) (b : Byte) : (⟨t.toInt, b.toNat⟩ : FloatCode).IsFloat3 :=
    ⟨t.le_toInt, Int.le_of_lt_add_one t.toInt_lt, Nat.le_of_lt_succ b.isLt⟩
  have hbytes (a b : Byte) : (a ++ b : BitVec 16).extractLsb' 8 8 = a ∧ (a ++ b : BitVec 16).extractLsb' 0 8 = b :=
    ⟨BitVec.extractLsb'_append_eq_left, BitVec.extractLsb'_append_eq_right⟩
  cases o <;> exact ⟨hcode _ _, by simp [pack3, unpack3, hbytes]⟩

theorem unpack2_pack2 {c : FloatCode} (h : c.IsFloat2) : ∃ b0 b1, pack2 c = [b0, b1] ∧ unpack2 b0 b1 = c := by
  obtain ⟨hmlo, hmhi, he, heven⟩ := h
  refine ⟨_, _, rfl, ?_⟩
  have hm := toInt_ofInt_slices (hi := 4) (lo := 8) (by decide) hmlo (Int.lt_add_one_of_le hmhi)
  have hexp : 2 * (BitVec.ofNat 4 (c.e / 2)).toNat = c.e := by
    rw [BitVec.toNat_ofNat]
    omega
  rw [unpack2, BitVec.extractLsb'_append_eq_right, BitVec.extractLsb'_append_eq_left]
  exact congrArg₂ FloatCode.mk hm hexp

theorem isFloat2_unpack2 (b0 b1 : Byte) : (unpack2 b0 b1).IsFloat2 := by
  have hexp : (b0.extractLsb' 4 4).toNat < 2 ^ 4 := BitVec.isLt _
  exact ⟨BitVec.le_toInt _, Int.le_of_lt_add_one BitVec.toInt_lt, Nat.mul_le_mul_left 2 (Nat.le_of_lt_succ hexp),
    Nat.mul_mod_right 2 _⟩

theorem pack2_unpack2 (b0 b1 : Byte) : pack2 (unpack2 b0 b1) = [b0, b1] := by
  have hbyte : b0.extractLsb' 4 4 ++ b0.extractLsb' 0 4 = b0 :=
    (BitVec.extractLsb'_append_extractLsb'_eq_extractLsb' rfl).trans BitVec.extractLsb'_eq_self
  rw [pack2, unpack2, BitVec.ofInt_toInt, Nat.mul_div_cancel_left _ two_pos, BitVec.ofNat_toNat, BitVec.setWidth_eq,
    BitVec.extractLsb'_append_eq_left, BitVec.extractLsb'_append_eq_right, hbyte]

/-- Settles O48, from the two round trips of either format. -/
theorem packingIsInverse : Obligations.PackingIsInverse :=
  ⟨fun o _ => unpack3_pack3 o, pack3_unpack3, fun _ => unpack2_pack2,
    fun b0 b1 => ⟨isFloat2_unpack2 b0 b1, pack2_unpack2 b0 b1⟩⟩

end Sys2Proof.Machine

/-! O52, O55, O57, O58 and O59: the telemetry commands whose bytes are integers, flags or raw (R126 to R136). One layer says
what an enabled and a disabled channel answer, and what a setter leaves in `TLM`; the positions come from the invariant. -/

namespace Sys2Proof.Machine

/-! ### Channels -/

section Channels

variable {s t : State} {en : Bool} {a n o : Nat} {v : Word} {b : Byte} {bs : List Byte}

/-- R120: a disabled channel reads 0. -/
theorem State.readChannel_of_disabled (hen : en = false) : s.readChannel en a n v = .next (s.respond ⟨.ok, 0#32⟩) :=
  State.readChannel_eq_next.mpr (.inl ⟨hen, rfl⟩)

theorem State.readChannel_of_enabled (hen : en = true) (hfit : a + n ≤ 17) :
    s.readChannel en a n v = .next (s.respond ⟨.ok, v⟩) :=
  State.readChannel_eq_next.mpr (.inr ⟨hen, hfit, rfl⟩)

/-- A channel that holds 0 reads 0, enabled or not. -/
theorem State.readChannel_of_zero (hfit : en = true → a + n ≤ 17) (hv : v = 0#32) :
    s.readChannel en a n v = .next (s.respond ⟨.ok, 0#32⟩) := by
  cases en with
  | false => exact State.readChannel_of_disabled rfl
  | true => exact hv ▸ State.readChannel_of_enabled rfl (hfit rfl)

/-- R120: a disabled channel is not written, whatever its operand. -/
theorem State.writeChannel_of_disabled {operand : Except Status (List Byte)} (hen : en = false) :
    s.writeChannel en a operand = .next (s.respond ⟨.ok, 0#32⟩) :=
  State.writeChannel_eq_next.mpr (.inl ⟨hen, rfl⟩)

/-- A write of bytes of `TLM`, answered (OK, 0), has the frame of the statements (R33). -/
theorem State.wroteTlm_writeTlm (s : State) (a : Nat) (bs : List Byte) :
    s.WroteTlm ((s.writeTlm a bs).respond ⟨.ok, 0#32⟩) a bs :=
  ⟨fun i hi => by simpa using State.writeTlm_byte_mem s a i bs hi,
    fun c hc => by simpa using State.writeTlm_byte_other s a c bs hc, rfl, rfl, rfl, rfl⟩

/-- R120: an enabled channel stores the bytes of its operand and nothing else. -/
theorem State.storeChannel_writes (hen : en = true) (hfit : a + bs.length ≤ 17) :
    ∃ t, s.writeChannel en a (.ok bs) = .next t ∧ s.WroteTlm t a bs :=
  ⟨_, State.writeChannel_eq_next.mpr (.inr (.inr ⟨bs, hen, rfl, hfit, rfl⟩)), State.wroteTlm_writeTlm s a bs⟩

/-- After a write of one byte every index reads the byte written or what it read before. -/
theorem State.WroteTlm.byte_eq (h : s.WroteTlm t o [b]) (c : Nat) :
    t.byte .tlm c = if c = o then b else s.byte .tlm c := by
  obtain ⟨hwritten, hother, -⟩ := h
  split_ifs with hc
  · exact hc ▸ hwritten 0 Nat.one_pos
  · exact hother c (by simp only [List.length_singleton]; omega)

/-- R16: a write of `TLM` leaves the mask and `LAY`. -/
theorem State.WroteTlm.layFollowsMask (h : s.WroteTlm t o bs) (hlay : s.LayFollowsMask) : t.LayFollowsMask := by
  obtain ⟨-, -, hset, hlayt, -⟩ := h
  rw [State.LayFollowsMask, hlayt, State.byte, State.mem_set, hset]
  exact hlay

end Channels

/-! ### Temperature and rpm -/

section Integers

variable {s t : State} {b hi lo : Byte}

/-- R128: "the byte at the lower index is the more significant", and the pair's sign is its sign. -/
theorem sextPair_eq (hi lo : Byte) : sextPair hi lo = BitVec.ofInt 32 (256 * hi.toInt + lo.toNat) :=
  congrArg (BitVec.ofInt 32) BitVec.toInt_append

/-- R129: the bytes that `TSET_RPM` stores are the low 16 bits. -/
theorem sextPair_slices (w : Word) : sextPair (w.extractLsb' 8 8) (w.extractLsb' 0 8) = (w.extractLsb' 0 16).signExtend 32 :=
  congrArg (BitVec.signExtend 32) (BitVec.extractLsb'_append_extractLsb'_eq_extractLsb' rfl)

/-- R126: an enabled temperature channel reads its byte, sign-extended. -/
theorem exec_tgetTemp (hlay : s.LayFollowsMask) (hen : s.lay.temp.en = true) :
    exec .tgetTemp s = .next (s.respond ⟨.ok, sextByte (s.byte .tlm s.lay.temp.off)⟩) :=
  State.readChannel_of_enabled hen (State.Inv.entry_fits hlay .temp hen)

/-- R128: an enabled rpm channel reads its two bytes as a pair. -/
theorem exec_tgetRpm (hlay : s.LayFollowsMask) (hen : s.lay.rpm.en = true) :
    exec .tgetRpm s =
      .next (s.respond ⟨.ok, sextPair (s.byte .tlm s.lay.rpm.off) (s.byte .tlm (s.lay.rpm.off + 1))⟩) :=
  State.readChannel_of_enabled hen (State.Inv.entry_fits hlay .rpm hen)

/-- R127: `TGET_TEMP` reads back the byte stored. -/
theorem State.WroteTlm.tgetTemp_readsBack (h : s.WroteTlm t s.lay.temp.off [b]) (hlay : s.LayFollowsMask)
    (hen : s.lay.temp.en = true) : exec .tgetTemp t = .next (t.respond ⟨.ok, sextByte b⟩) := by
  have hfollows := h.layFollowsMask hlay
  obtain ⟨hbytes, -, -, hlayt, -⟩ := h
  have hb : t.byte .tlm s.lay.temp.off = b := hbytes 0 Nat.one_pos
  rw [exec_tgetTemp hfollows (hlayt ▸ hen), hlayt, hb]

/-- R129: `TGET_RPM` reads back the pair stored. -/
theorem State.WroteTlm.tgetRpm_readsBack (h : s.WroteTlm t s.lay.rpm.off [hi, lo]) (hlay : s.LayFollowsMask)
    (hen : s.lay.rpm.en = true) : exec .tgetRpm t = .next (t.respond ⟨.ok, sextPair hi lo⟩) := by
  have hfollows := h.layFollowsMask hlay
  obtain ⟨hbytes, -, -, hlayt, -⟩ := h
  have hhi : t.byte .tlm s.lay.rpm.off = hi := hbytes 0 Nat.two_pos
  have hlo : t.byte .tlm (s.lay.rpm.off + 1) = lo := hbytes 1 Nat.one_lt_two
  rw [exec_tgetRpm hfollows (hlayt ▸ hen), hlayt, hhi, hlo]

end Integers

/-- Settles O52: `sextByte` is the signed byte by definition, and `sextPair_eq`. -/
theorem temperatureAndRpmGetters : Obligations.TemperatureAndRpmGetters := by
  refine ⟨decodesTo_of_row rfl, decodesTo_of_row rfl, fun s ⟨_, _, hlay⟩ => ?_⟩
  refine ⟨State.readChannel_of_disabled, exec_tgetTemp hlay, State.readChannel_of_disabled, fun hen => ?_⟩
  rw [exec_tgetRpm hlay hen, sextPair_eq]

/-- Settles O55: the stored bytes are read back by their getters in the state after the write. -/
theorem temperatureAndRpmSetters : Obligations.TemperatureAndRpmSetters := by
  refine ⟨decodesTo_of_row rfl, decodesTo_of_row rfl, fun s w ⟨_, _, hlay⟩ => ?_⟩
  refine ⟨State.writeChannel_of_disabled (operand := .ok [lowByte w]), fun hen => ?_,
    State.writeChannel_of_disabled (operand := .ok (lowPair w)), fun hen => ?_⟩
  · have hfit : s.lay.temp.off + 1 ≤ 17 := State.Inv.entry_fits hlay .temp hen
    obtain ⟨t, hexec, hwrote⟩ := State.storeChannel_writes (s := s) (bs := [lowByte w]) hen hfit
    exact ⟨t, hexec, hwrote, hwrote.tgetTemp_readsBack hlay hen⟩
  · have hfit : s.lay.rpm.off + 2 ≤ 17 := State.Inv.entry_fits hlay .rpm hen
    obtain ⟨t, hexec, hwrote⟩ := State.storeChannel_writes (s := s) (bs := lowPair w) hen hfit
    refine ⟨t, hexec, hwrote, ?_⟩
    rw [← sextPair_slices]
    exact hwrote.tgetRpm_readsBack hlay hen

/-! ### Alarms -/

/-- R133: `putBit` replaces bit `p` and keeps every other. -/
theorem putBit_getLsbD (b : Byte) {p : Nat} (v : Bool) (hp : p < 8) (k : Nat) :
    (putBit b p v).getLsbD k = if k = p then v else b.getLsbD k := by
  have hflag (j : Nat) : (if v then 1#8 else 0#8).getLsbD j = (v && decide (j = 0)) := by
    cases v <;> simp
  have hsame : k - p = 0 ↔ k ≤ p := by omega
  simp only [putBit, BitVec.getLsbD_or, BitVec.getLsbD_and, BitVec.getLsbD_not, BitVec.getLsbD_shiftLeft, hflag,
    BitVec.getLsbD_one, hsame]
  obtain hlt | rfl | hgt := Nat.lt_trichotomy k p
  · simp [hlt, hlt.ne, hlt.trans hp]
  · simp [hp]
  · simpa [hgt.ne', hgt.not_ge] using b.lt_of_getLsbD

/-- R133: `TSET_ALM` stores the alarm byte with the alarm's bit replaced, where the alarm exists. -/
theorem exec_tsetAlm {s : State} {idx : Byte} (w : Word) (hlay : s.LayFollowsMask) (hidx : idx.toNat < 3)
    (halm : idx.toNat < s.lay.alm.width) :
    ∃ t, exec (.tsetAlm idx w) s = .next t ∧ s.WroteTlm t s.lay.alm.off
      [putBit (s.byte .tlm s.lay.alm.off) (s.lay.alm.bit + idx.toNat) (w.getLsbD 0)] := by
  obtain ⟨t, hstore, hwrote⟩ := State.storeChannel_writes (s := s)
    (bs := [putBit (s.byte .tlm s.lay.alm.off) (s.lay.alm.bit + idx.toNat) (flagBit w)])
    (decide_eq_true halm) (State.Inv.alarm_fits hlay halm)
  exact ⟨t, (if_neg hidx.not_ge).trans hstore, hwrote⟩

/-- Settles O57: the alarm byte is the one byte written, and `putBit_getLsbD` says which of its bits changes. -/
theorem alarmSetterChangesOneBit : Obligations.AlarmSetterChangesOneBit := by
  refine ⟨decodesTo_of_row rfl, fun s idx w ⟨_, _, hlay⟩ => ⟨fun h => if_pos h, fun hidx halm => ?_, fun hidx halm => ?_⟩⟩
  · exact (if_neg hidx.not_ge).trans (State.writeChannel_of_disabled (decide_eq_false halm.not_gt))
  · obtain ⟨t, hexec, hwrote⟩ := exec_tsetAlm w hlay hidx halm
    have hbyte := hwrote.byte_eq
    have hbit : s.lay.alm.bit + idx.toNat < 8 := by
      obtain ⟨hzero, -⟩ := layout_alm (s.byte .set 6)
      rw [← hlay] at hzero
      omega
    obtain ⟨-, -, hset, hlayt, hinputs, hrsp⟩ := hwrote
    refine ⟨t, hexec, ?_, fun a k hother => ?_, hset, hlayt, hinputs, hrsp⟩
    · rw [hbyte, if_pos rfl, putBit_getLsbD _ _ hbit, if_pos rfl]
    · rw [hbyte]
      split_ifs with ha
      · rw [putBit_getLsbD _ _ hbit, if_neg fun hk => hother ⟨ha, hk⟩, ha]
      · rfl

/-! ### Raw bytes -/

/-- Settles O58: an index below the record's length is an index of the buffer. -/
theorem rawTelemetryAccess : Obligations.RawTelemetryAccess := by
  refine ⟨decodesTo_of_row rfl, decodesTo_of_row rfl, fun s idx w ⟨_, _, hlay⟩ => ⟨fun h => ⟨if_pos h, if_pos h⟩, fun h => ?_⟩⟩
  have hin : idx.toNat + 1 ≤ 17 := State.Inv.record_fits hlay h.not_ge
  refine ⟨?_, _, (if_neg h.not_ge).trans (Space.within_of_le hin), State.wroteTlm_writeTlm s _ _⟩
  calc exec (.trdb idx) s = s.answer (zextByte (s.byte .tlm idx.toNat)) :=
        (if_neg h.not_ge).trans (Space.within_of_le hin)
    _ = .next (s.respond ⟨.ok, BitVec.ofNat 32 (s.byte .tlm idx.toNat).toNat⟩) := by
        rw [zextByte, BitVec.ofNat_toNat, State.answer_def]

/-! ### Clearing -/

section Clear

variable {s t : State}

/-- Canonical contents list no byte beyond their space (log 4). -/
theorem Memory.read_of_le {n lo : Nat} {m : Memory} {a : Nat} (hwf : Memory.wfFrom n lo m = true) (ha : n ≤ a) :
    m.read a = 0#8 := by
  induction m generalizing lo with
  | nil => rfl
  | cons c rest ih =>
    obtain ⟨-, hc, -, hrest⟩ := Memory.wfFrom_cons.mp hwf
    rw [Memory.read_cons, if_neg (by omega), ih hrest]

/-- R136: `TCLR` writes 0 to every index of `TLM`, whatever `LAY` says. -/
theorem exec_tclr (s : State) : ∃ t, exec .tclr s = .next t ∧ s.WroteTlm t 0 (List.replicate 17 0#8) :=
  ⟨_, rfl, State.wroteTlm_writeTlm s _ _⟩

/-- R136: the 17 bytes of `TLM` are all there is. -/
theorem State.WroteTlm.byte_of_clear (h : s.WroteTlm t 0 (List.replicate 17 0#8)) (hinv : s.Inv) (a : Nat) :
    t.byte .tlm a = 0#8 := by
  obtain ⟨hwritten, hother, -⟩ := h
  obtain ⟨-, hwf, -⟩ := hinv
  by_cases ha : a < 17
  · have hread := hwritten a (by rwa [List.length_replicate])
    rwa [Nat.zero_add, List.getElem_replicate] at hread
  · have hle : 17 ≤ a := Nat.le_of_not_lt ha
    rw [hother a (.inr (by rwa [List.length_replicate, Nat.zero_add]))]
    exact Memory.read_of_le hwf hle

/-- R136: where every byte is 0, every getter with a legal index answers 0, its channel enabled or not. -/
theorem exec_getter_of_zero (hlay : t.LayFollowsMask) (hzero : ∀ a, t.byte .tlm a = 0#8) :
    ∀ i ∈ [Instr.tgetBat, .tgetCur, .tgetTemp, .tgetRpm, .tgetGps 0#8, .tgetGps 1#8, .tgetGps 2#8, .tgetAlm 0#8,
      .tgetAlm 1#8, .tgetAlm 2#8], exec i t = .next (t.respond ⟨.ok, 0#32⟩) := by
  have hfloat2 {e : LayEntry} (hfit : e.en = true → e.off + 2 ≤ 17) : t.readFloat2 e = .next (t.respond ⟨.ok, 0#32⟩) :=
    State.readChannel_of_zero hfit (by rw [hzero, hzero]; decide)
  have hgps {idx : Byte} (hidx : idx.toNat < 3) : exec (.tgetGps idx) t = .next (t.respond ⟨.ok, 0#32⟩) :=
    (if_neg hidx.not_ge).trans
      (State.readChannel_of_zero (State.Inv.axis_fits hlay hidx) (by rw [hzero, hzero, hzero]; decide))
  have halm {idx : Byte} (hidx : idx.toNat < 3) : exec (.tgetAlm idx) t = .next (t.respond ⟨.ok, 0#32⟩) :=
    (if_neg hidx.not_ge).trans (State.readChannel_of_zero
      (fun hen => State.Inv.alarm_fits hlay (of_decide_eq_true hen)) (by rw [hzero, BitVec.getLsbD_zero]; rfl))
  simp only [List.forall_mem_cons, List.not_mem_nil, false_implies, implies_true, and_true]
  exact ⟨hfloat2 (State.Inv.entry_fits hlay .bat), hfloat2 (State.Inv.entry_fits hlay .cur),
    State.readChannel_of_zero (State.Inv.entry_fits hlay .temp) (by rw [hzero]; decide),
    State.readChannel_of_zero (State.Inv.entry_fits hlay .rpm) (by rw [hzero, hzero]; decide),
    hgps (by decide), hgps (by decide), hgps (by decide), halm (by decide), halm (by decide), halm (by decide)⟩

end Clear

/-- Settles O59: the 17 bytes written are the whole buffer, and a getter of zero bytes answers 0. -/
theorem clearZeroesTheWholeBuffer : Obligations.ClearZeroesTheWholeBuffer := by
  refine ⟨decodesTo_of_row rfl, fun s hinv => ?_⟩
  obtain ⟨t, hexec, hwrote⟩ := exec_tclr s
  have hzero := hwrote.byte_of_clear hinv
  obtain ⟨-, -, hlay⟩ := hinv
  have hgetters := exec_getter_of_zero (hwrote.layFollowsMask hlay) hzero
  obtain ⟨-, -, hset, hlayt, hinputs, hrsp⟩ := hwrote
  exact ⟨t, hexec, hzero, hset, hlayt, hinputs, hrsp, hgetters⟩

end Sys2Proof.Machine

/-! ## NOP (spec 44)

No operand and no access: the opcode decodes to `nop` whatever the other fields hold, and `nop` only responds. -/

namespace Sys2Proof.Machine

/-- R138: `NOP` "reads and writes no state"; only the response is new. -/
@[simp] theorem exec_nop (s : State) : exec .nop s = .next (s.respond ⟨.ok, 0#32⟩) := rfl

/-- Settles O25: the row of opcode 0 builds `nop` from any `IDX` and `WDATA`, and `exec_nop`. -/
theorem nopOnlyAnswers : Obligations.NopOnlyAnswers :=
  ⟨decodesTo_of_row rfl, exec_nop⟩

end Sys2Proof.Machine

/-! O16 and O22: a fault is no more than its response (R143, R146), and the machine's run on a list of words is the fold of
the command step (R150). Both rest on `execWord_withPort`: what a word does depends on neither the standing response nor the
waiting inputs, so two states that differ only there go on alike. -/

namespace Sys2Proof.Machine

section Words

variable {w : CommandWord} {s t : State} {r : Response}

/-! ### One command word -/

/-- R19 for every word, command or not: the port passes through unread. -/
theorem execWord_withPort (w : CommandWord) (s : State) (o : Option Response) (q : List PortInput) :
    execWord w (s.withPort o q) = withInputs q (execWord w s) := by
  cases hw : decode w with
  | ok i => rw [execWord_of_decode hw, execWord_of_decode hw, exec_withPort]
  | error e =>
    simp only [execWord, hw]
    rfl

/-- A standing response makes no difference to the next word, whichever it is. -/
theorem execWord_respond (w : CommandWord) (s : State) (r : Response) :
    execWord w (s.respond r) = withInputs s.inputs (execWord w s) :=
  execWord_withPort w s (some r) s.inputs

/-- A command whose response is a fault has only responded: a writer that stored bytes answers OK (R143). -/
theorem CommandEnd.eq_respond_of_fault {i : Instr} (hend : CommandEnd i s t) (hrsp : t.rsp = some r)
    (hfault : r.status ≠ .ok) : t = s.respond ⟨r.status, 0#32⟩ := by
  cases hend with
  | responded r' _ hdata =>
    obtain rfl : r' = r := Option.some.inj hrsp
    rw [← hdata hfault]
  | wroteSet | wroteTlm =>
    obtain rfl : ⟨.ok, 0#32⟩ = r := Option.some.inj hrsp
    exact absurd rfl hfault

/-- R143 for every word: one that is no command faults with `ERR_OPCODE` and data 0 itself (R50, R141). -/
theorem execWord_eq_respond_of_fault (h : execWord w s = .next t) (hrsp : t.rsp = some r) (hfault : r.status ≠ .ok) :
    t = s.respond ⟨r.status, 0#32⟩ := by
  obtain ⟨i, -, hexec⟩ | ⟨e, -, hraise⟩ := execWord_cases w s
  · exact (exec_commandEnd (hexec ▸ h)).eq_respond_of_fault hrsp hfault
  · obtain rfl := Host.Outcome.next.inj (hraise.symm.trans h)
    obtain rfl : ⟨.errOpcode, 0#32⟩ = r := Option.some.inj hrsp
    rfl

/-- Every word that ends gives a response, commands (R55) and other words (R50) alike. -/
theorem execWord_responds (h : execWord w s = .next t) : ∃ r, t.rsp = some r := by
  obtain ⟨i, -, hexec⟩ | ⟨e, -, hraise⟩ := execWord_cases w s
  · exact Option.isSome_iff_exists.mp (exec_commandEnd (hexec ▸ h)).responds.1
  · obtain rfl := Host.Outcome.next.inj (hraise.symm.trans h)
    exact ⟨_, rfl⟩

end Words

/-- Settles O16: the faulting word leaves the old state but for its response, and the next word does not read that. -/
theorem faultsChangeNothing : Obligations.FaultsChangeNothing := by
  intro w s t r h hrsp hfault
  have ht := execWord_eq_respond_of_fault h hrsp hfault
  refine ⟨ht, fun w' => ?_⟩
  rw [ht, execWord_respond, execWord_respond]

/-! ### The fold of R150 and the machine's run -/

section Runs

variable {w : CommandWord} {ws : List CommandWord} {s t : State} {r : Response} {rs : List Response}

theorem commandStep_eq_some : commandStep w s = some (t, r) ↔ execWord w s = .next t ∧ t.rsp = some r := by
  unfold commandStep
  cases execWord w s with
  | next m =>
    simp only [Option.map_eq_some_iff, Prod.mk.injEq, Host.Outcome.next.injEq]
    constructor
    · rintro ⟨_, hrsp, rfl, rfl⟩
      exact ⟨rfl, hrsp⟩
    · rintro ⟨rfl, hrsp⟩
      exact ⟨r, hrsp, rfl, rfl⟩
  | fault f => simp
  | refused c => simp

theorem runWords_cons_eq_some : runWords (w :: ws) s = some (t, rs) ↔
    ∃ m r rs', execWord w s = .next m ∧ m.rsp = some r ∧ runWords ws m = some (t, rs') ∧ rs = r :: rs' := by
  constructor
  · intro h
    simp only [runWords] at h
    split at h
    · cases h
    · next m r hstep =>
      obtain ⟨hexec, hrsp⟩ := commandStep_eq_some.mp hstep
      obtain ⟨⟨u, rs'⟩, hrest, hpair⟩ := Option.map_eq_some_iff.mp h
      obtain ⟨rfl, rfl⟩ := Prod.mk.inj hpair
      exact ⟨m, r, rs', hexec, hrsp, hrest, rfl⟩
  · rintro ⟨m, r, rs', hexec, hrsp, hrest, rfl⟩
    simp [runWords, commandStep_eq_some.mpr ⟨hexec, hrsp⟩, hrest]

/-- The fold never stops: a word is total under the invariant, and keeps it (R7, R16). -/
theorem exists_runWords (ws : List CommandWord) (hinv : s.Inv) : ∃ t rs, runWords ws s = some (t, rs) := by
  induction ws generalizing s with
  | nil => exact ⟨s, [], rfl⟩
  | cons w ws ih =>
    have ⟨_, _, hlay⟩ := hinv
    obtain ⟨m, hexec⟩ := execWord_next w hlay
    obtain ⟨r, hrsp⟩ := execWord_responds hexec
    obtain ⟨t, rs, hrest⟩ := ih (execWord_inv hinv hexec)
    exact ⟨t, r :: rs, runWords_cons_eq_some.mpr ⟨m, r, rs, hexec, hrsp, hrest, rfl⟩⟩

theorem runWords_length (h : runWords ws s = some (t, rs)) : rs.length = ws.length := by
  induction ws generalizing s rs with
  | nil =>
    obtain ⟨-, rfl⟩ := Prod.mk.inj (Option.some.inj h)
    rfl
  | cons w ws ih =>
    obtain ⟨m, r, rs', -, -, hrest, rfl⟩ := runWords_cons_eq_some.mp h
    simp [ih hrest]

/-- The response that stands after the fold is its last one, or the one that stood before where there is none. -/
theorem runWords_rsp (h : runWords ws s = some (t, rs)) : t.rsp = rs.getLast?.or s.rsp := by
  induction ws generalizing s rs with
  | nil =>
    obtain ⟨rfl, rfl⟩ := Prod.mk.inj (Option.some.inj h)
    rfl
  | cons w ws ih =>
    obtain ⟨m, r, rs', -, hrsp, hrest, rfl⟩ := runWords_cons_eq_some.mp h
    rw [ih hrest, hrsp, List.getLast?_cons]
    cases rs'.getLast? <;> rfl

/-- One machine step on presented words is the first word's meaning, with the other words left on the port (R55, R39). -/
theorem step_present_cons (h : execWord w s = .next t) : step (s.present (w :: ws)) = .next (t.present ws) :=
  calc step (s.present (w :: ws)) = execWord w (s.present (w :: ws)).begin := step_of_presented rfl
    _ = withInputs (ws.map presentCommand) (execWord w s) := execWord_withPort w s none (ws.map presentCommand)
    _ = .next (t.present ws) := by rw [h]; rfl

/-- A step that gives a next state, and the run of the rest from there. -/
theorem core_run_succ {M : Host.Core} {s t : M.State} {k : Nat} (h : M.step s = .next t) :
    M.run (k + 1) s = M.run k t := by
  simp [Host.Core.run, h]

/-- The refinement: as many machine steps as words end in the fold's own end state, with nothing left on the port. -/
theorem core_run_present (h : runWords ws s = some (t, rs)) :
    core.run ws.length (s.present ws) = .next (t.present []) := by
  induction ws generalizing s rs with
  | nil =>
    obtain ⟨rfl, -⟩ := Prod.mk.inj (Option.some.inj h)
    rfl
  | cons w ws ih =>
    obtain ⟨m, r, rs', hexec, -, hrest, -⟩ := runWords_cons_eq_some.mp h
    calc core.run (ws.length + 1) (s.present (w :: ws)) = core.run ws.length (m.present ws) :=
          core_run_succ (step_present_cons hexec)
      _ = .next (t.present []) := ih hrest

end Runs

/-- Settles O22: the fold is total under the invariant, and the machine reaches its end state, whose response is the last. -/
theorem runIsTheFoldOfCommands : Obligations.RunIsTheFoldOfCommands := by
  intro ws s hinv
  obtain ⟨t, rs, hrun⟩ := exists_runWords ws hinv
  have hlength := runWords_length hrun
  refine ⟨t, rs, hrun, hlength, t.present [], core_run_present hrun, ⟨rfl, rfl, rfl⟩, rfl, fun hws => ?_⟩
  have hrs : rs ≠ [] := fun hnil => hws (List.length_eq_zero_iff.mp (by simpa [hnil] using hlength.symm))
  rw [State.present_rsp, runWords_rsp hrun, List.getLast?_eq_some_getLast hrs, Option.some_or]

end Sys2Proof.Machine

/-! O9 and O38: what reset leaves (R26, R155), and the layout-change hazard (R162). Two writes of the same byte of `SET` are
together a write of the later value; with the old value that is a write of what stood there, which leaves the data
(`State.sameData_of_wroteSet`). -/

namespace Sys2Proof.Machine

/-- Settles O9: the empty buffers read 0 everywhere, and the empty table is the layout of the mask `0x00`. -/
theorem resetValues : Obligations.ResetValues := by
  have hlay : State.reset.lay = layout 0x00#8 := layout_zero.symm
  exact ⟨State.reset_byte .set, State.reset_byte .tlm, hlay, rfl, rfl⟩

/-- Of two writes of the same byte of `SET` the later one stands: nothing else moves, and `LAY` follows the later value (R16). -/
theorem State.WroteSet.trans {s t u : State} {a : Nat} {v v' : Byte} (h : s.WroteSet t a v) (h' : t.WroteSet u a v') :
    s.WroteSet u a v' := by
  obtain ⟨-, hother, htlm, hlay, hinputs, -⟩ := h
  obtain ⟨hsame', hother', htlm', hlay', hinputs', hrsp'⟩ := h'
  have hlast : u.lay = if a = 6 then layout v' else s.lay := by
    by_cases ha : a = 6
    · simpa [ha] using hlay'
    · simpa [ha, hlay] using hlay'
  exact ⟨hsame', fun b hb => (hother' b hb).trans (hother b hb), htlm'.trans htlm, hlast, hinputs'.trans hinputs, hrsp'⟩

/-- Settles O38: the two mask writes together are a write of the old mask. -/
theorem maskChangeKeepsTelemetryBytes : Obligations.MaskChangeKeepsTelemetryBytes := by
  intro s w hinv
  obtain ⟨t, hexec, hwrote, hlay, -⟩ := ssetTmsk_writes w s
  obtain ⟨u, hback, hwroteBack, -⟩ := ssetTmsk_writes ((s.byte .set 6).setWidth 32) t
  have htlm : t.tlm = s.tlm := by
    obtain ⟨-, -, htlm, -⟩ := hwrote
    exact htlm
  have hboth : s.WroteSet u 6 (s.byte .set 6) := hwrote.trans (lowByte_setWidth (s.byte .set 6) ▸ hwroteBack)
  have hinvBack : u.Inv := (exec_commandEnd hback).inv ((exec_commandEnd hexec).inv hinv)
  exact ⟨t, hexec, htlm, hlay, u, hback, State.sameData_of_wroteSet hinv hinvBack hboth⟩

end Sys2Proof.Machine

/-! O7, O8, O14, O17, O18, O19, O20 and O24: the reset and idle steps, and what holds of every command alike. The statements
about all commands read the ways a command can end (`exec_commandEnd`); that a repeated command changes nothing more is that
writing what already stands in a buffer is no change, because contents in canonical form that read alike are equal. -/

namespace Sys2Proof.Machine

/-! ### Steps without a command -/

/-- Settles O7: the event of an input with `rst = 1` is the reset, whatever else it carries. -/
theorem resetInputGivesTheResetState : Obligations.ResetInputGivesTheResetState := by
  intro s valid w rest hinputs
  have hevent : s.event = .reset := by simp [State.event, hinputs, PortInput.event]
  have hinputs' : s.begin.resetByPort.inputs = rest := by simp [hinputs]
  have hlay : s.begin.resetByPort.lay = layout 0x00#8 := layout_zero.symm
  exact ⟨s.begin.resetByPort, by simp [step, hevent], fun _ => rfl, fun _ => rfl, hlay, rfl, hinputs'⟩

/-- Settles O8: nothing driven and nothing valid are both the idle event, which only takes the input. -/
theorem idlePortKeepsTheState : Obligations.IdlePortKeepsTheState := by
  intro s w rest hinputs
  have hevent : s.event = .idle := by
    obtain hnone | hinvalid := hinputs
    · simp [State.event, hnone]
    · simp [State.event, hinvalid, PortInput.event]
  exact ⟨s.begin, by simp [step, hevent], ⟨rfl, rfl, rfl⟩, rfl, rfl⟩

/-! ### What holds of every way a command can end -/

/-- Settles O17: a command that stored bytes answers OK, and any other response has a status of its row. -/
theorem statusesFollowTheMatrix : Obligations.StatusesFollowTheMatrix := by
  intro i s t r hexec hrsp
  cases exec_commandEnd hexec with
  | responded r' hstatus =>
    obtain rfl : r' = r := Option.some.inj hrsp
    exact hstatus
  | wroteSet | wroteTlm =>
    obtain rfl : ⟨.ok, 0#32⟩ = r := Option.some.inj hrsp
    rfl

/-- Settles O18: a command that stored bytes is a writer of that buffer, and only a write of `SET[6]` moves `LAY`. -/
theorem commandsWriteOnlyTheirSpace : Obligations.CommandsWriteOnlyTheirSpace := by
  intro i s t hexec
  cases exec_commandEnd hexec with
  | responded => exact ⟨fun _ => rfl, fun _ => rfl, fun _ => rfl⟩
  | wroteSet a v hwriter _ hmask =>
    refine ⟨fun hno => absurd hwriter (by simp [hno]), fun _ => rfl, fun hno => ?_⟩
    have ha : a ≠ 6 := fun h6 => absurd (hmask h6) (by simp [hno])
    simp [ha]
  | wroteTlm a bs hwriter => exact ⟨fun _ => rfl, fun hno => absurd hwriter (by simp [hno]), fun _ => rfl⟩

/-- R35: a command that is no writer has only responded. -/
theorem CommandEnd.eq_respond_of_reader {i : Instr} {s t : State} (hend : CommandEnd i s t) (hset : writesSet i = false)
    (htlm : writesTlm i = false) : ∃ r, t = s.respond r := by
  cases hend with
  | responded r => exact ⟨r, rfl⟩
  | wroteSet _ _ hwriter => exact absurd hwriter (by simp [hset])
  | wroteTlm _ _ hwriter => exact absurd hwriter (by simp [htlm])

/-- Settles O19, by `CommandEnd.eq_respond_of_reader`. -/
theorem readsHaveNoSideEffect : Obligations.ReadsHaveNoSideEffect :=
  fun _ _ _ hset htlm hexec => (exec_commandEnd hexec).eq_respond_of_reader hset htlm

/-- Settles O24, by `Memory.ext_of_wfFrom`. -/
theorem equalReadsAreEqualContents : Obligations.EqualReadsAreEqualContents :=
  fun _ _ _ hwf hwf' hread => Memory.ext_of_wfFrom hwf hwf' hread

/-! ### Writing what already stands there -/

section Rewriting

variable {s : State} {a : Nat} {v : Byte} {bs : List Byte}

/-- Writing bytes over themselves leaves canonical contents (log 4). -/
theorem Memory.writeList_self {n : Nat} {m : Memory} (hwf : m.wf n = true) (hfit : a + bs.length ≤ n)
    (hstand : ∀ j, (h : j < bs.length) → m.read (a + j) = bs[j]) : m.writeList a bs = m := by
  refine Memory.ext_of_wfFrom (Memory.wf_writeList bs hwf hfit) hwf fun b _ => ?_
  by_cases hb : b < a ∨ a + bs.length ≤ b
  · exact Memory.read_writeList_other m a b bs hb
  · obtain ⟨j, rfl⟩ := Nat.exists_eq_add_of_le (show a ≤ b by omega)
    have hj : j < bs.length := by omega
    rw [Memory.read_writeList_mem m a j bs hj, hstand j hj]

/-- The bytes that a write put into `TLM` may be written again. -/
theorem State.writeTlm_writeTlm_self (hinv : s.Inv) (hfit : a + bs.length ≤ 17) :
    (s.writeTlm a bs).writeTlm a bs = s.writeTlm a bs := by
  obtain ⟨-, hwf, -⟩ := hinv.writeTlm a bs hfit
  have hsame : (s.writeTlm a bs).tlm.writeList a bs = (s.writeTlm a bs).tlm :=
    Memory.writeList_self hwf hfit fun j hj => Memory.read_writeList_mem s.tlm a j bs hj
  rw [State.writeTlm, hsame]

/-- The byte that a write put into `SET` may be written again; `LAY` already follows it (R16). -/
theorem State.writeSet_writeSet_self (hinv : s.Inv) (ha : a < 32) :
    (s.writeSet a v).writeSet a v = s.writeSet a v := by
  obtain ⟨hwf, -⟩ := hinv.writeSet a v ha
  have hsame : (s.writeSet a v).set.writeList a [v] = (s.writeSet a v).set := by
    refine Memory.writeList_self hwf ha fun j hj => ?_
    obtain rfl : j = 0 := by simpa using hj
    exact Memory.read_write_same s.set a v
  have hlay : (if a = 6 then layout v else (s.writeSet a v).lay) = (s.writeSet a v).lay := by
    by_cases h6 : a = 6 <;> simp [h6]
  rw [State.writeSet, hlay]
  exact congrArg (fun m => { s.writeSet a v with set := m }) hsame

end Rewriting

/-! ### Repeated commands -/

section Repetition

variable {i : Instr} {s t : State} {idx : Byte} {w : Word}

/-- R19, R35: a command that only responded does so again, as it does not read its earlier response. -/
theorem exec_again_of_respond {r : Response} (h : exec i s = .next (s.respond r)) :
    exec i (s.respond r) = .next (s.respond r) :=
  calc exec i (s.respond r) = withInputs s.inputs (exec i s) := exec_withPort s (some r) s.inputs i
    _ = .next (s.respond r) := by rw [h]; rfl

/-- A check that reads no buffer decides alike when the command is run again. -/
theorem raise_or_again {c : Prop} [Decidable c] {code : Status} {k : State → Result}
    (hk : ¬ c → k s = .next t → k t = .next t) (h : (if c then s.raise code else k s) = .next t) :
    (if c then t.raise code else k t) = .next t := by
  by_cases hc : c
  · rw [if_pos hc, State.raise_eq_next] at h
    rw [if_pos hc, State.raise_eq_next, h, State.respond_respond]
  · rw [if_neg hc] at h ⊢
    exact hk hc h

/-- R34: replacing a slot's bits by the same operand a second time changes nothing. -/
theorem Slot.insert_insert (p : Slot) (old : Byte) (v : Word) : p.insert (p.insert old v) v = p.insert old v := by
  refine BitVec.eq_of_getLsbD_eq fun k hk => ?_
  simp only [Slot.getLsbD_insert p _ v k hk]
  split_ifs <;> rfl

/-- A write of `SET` answered (OK, 0), issued again, is no change. -/
theorem State.writeSet_again {a : Nat} {v : Byte} (hinv : s.Inv) (ha : a < 32) :
    (((s.writeSet a v).respond ⟨.ok, 0#32⟩).writeSet a v).respond ⟨.ok, 0#32⟩ =
      (s.writeSet a v).respond ⟨.ok, 0#32⟩ :=
  calc (((s.writeSet a v).respond ⟨.ok, 0#32⟩).writeSet a v).respond ⟨.ok, 0#32⟩ =
        ((s.writeSet a v).writeSet a v).respond ⟨.ok, 0#32⟩ := rfl
    _ = (s.writeSet a v).respond ⟨.ok, 0#32⟩ := by rw [State.writeSet_writeSet_self hinv ha]

/-- A write of `TLM` answered (OK, 0), issued again, is no change. -/
theorem State.writeTlm_again {a : Nat} {bs : List Byte} (hinv : s.Inv) (hfit : a + bs.length ≤ 17) :
    (((s.writeTlm a bs).respond ⟨.ok, 0#32⟩).writeTlm a bs).respond ⟨.ok, 0#32⟩ =
      (s.writeTlm a bs).respond ⟨.ok, 0#32⟩ :=
  calc (((s.writeTlm a bs).respond ⟨.ok, 0#32⟩).writeTlm a bs).respond ⟨.ok, 0#32⟩ =
        ((s.writeTlm a bs).writeTlm a bs).respond ⟨.ok, 0#32⟩ := rfl
    _ = (s.writeTlm a bs).respond ⟨.ok, 0#32⟩ := by rw [State.writeTlm_writeTlm_self hinv hfit]

/-- R35: a settings setter writes the byte that its first run left. -/
theorem settingSetter_again (f : Setting) (hinv : s.Inv) (h : exec (settingSetter f w) s = .next t) :
    exec (settingSetter f w) t = .next t := by
  rw [exec_settingSetter, State.putSetting_eq] at h
  obtain rfl := Host.Outcome.next.inj h
  have hbyte : f.slot.byte < 32 := Nat.lt_of_le_of_lt f.slot_fits.1 (by decide)
  rw [exec_settingSetter, State.putSetting_eq, State.respond_byte, State.writeSet_byte_same, Slot.insert_insert,
    State.writeSet_again hinv hbyte]

/-- R35: a raw write of `SET` writes the same byte again. -/
theorem swrb_again (hinv : s.Inv) (h : exec (.swrb idx w) s = .next t) : exec (.swrb idx w) t = .next t := by
  refine raise_or_again (k := fun u => (u.writeSet idx.toNat (lowByte w)).answer 0#32) (fun hidx hstore => ?_) h
  obtain rfl := State.answer_eq_next _ |>.mp hstore
  exact State.answer_eq_next _ |>.mpr (State.writeSet_again hinv (Nat.lt_of_not_le hidx)).symm

/-- R35: a channel's setter, whose position comes from `LAY`, ends alike when it is run again with the same operand. -/
theorem State.writeChannel_again {en : Lay → Bool} {a : Lay → Nat} {operand : Except Status (List Byte)} (hinv : s.Inv)
    (h : s.writeChannel (en s.lay) (a s.lay) operand = .next t) :
    t.writeChannel (en t.lay) (a t.lay) operand = .next t := by
  obtain ⟨hen, rfl⟩ | ⟨c, hen, hc, rfl⟩ | ⟨bs, hen, hbs, hfit, rfl⟩ := State.writeChannel_eq_next.mp h
  · exact State.writeChannel_of_disabled hen
  · exact State.writeChannel_eq_next.mpr (.inr (.inl ⟨c, hen, hc, rfl⟩))
  · exact State.writeChannel_eq_next.mpr (.inr (.inr ⟨bs, hen, hbs, hfit, (State.writeTlm_again hinv hfit).symm⟩))

/-- R133: replacing a bit by the same value a second time changes nothing. -/
theorem putBit_putBit (b : Byte) {p : Nat} (v : Bool) (hp : p < 8) : putBit (putBit b p v) p v = putBit b p v := by
  refine BitVec.eq_of_getLsbD_eq fun k _ => ?_
  simp only [putBit_getLsbD _ v hp]
  split_ifs <;> rfl

/-- R35: the alarm setter reads the byte it writes, and finds its own bit there the second time. -/
theorem tsetAlm_again (hinv : s.Inv) (h : exec (.tsetAlm idx w) s = .next t) : exec (.tsetAlm idx w) t = .next t := by
  have ⟨_, _, hlay⟩ := hinv
  have ⟨hbit, _⟩ := layout_alm (s.byte .set 6)
  rw [← hlay] at hbit
  refine raise_or_again (k := fun u => u.writeChannel (decide (idx.toNat < u.lay.alm.width)) u.lay.alm.off
    (.ok [putBit (u.byte .tlm u.lay.alm.off) (u.lay.alm.bit + idx.toNat) (flagBit w)])) (fun hidx hstore => ?_) h
  have hp : s.lay.alm.bit + idx.toNat < 8 := by omega
  obtain ⟨hen, rfl⟩ | ⟨c, -, hc, -⟩ | ⟨bs, hen, hbs, hfit, rfl⟩ := State.writeChannel_eq_next.mp hstore
  · exact State.writeChannel_of_disabled hen
  · cases hc
  · obtain rfl := Except.ok.inj hbs
    refine State.writeChannel_eq_next.mpr (.inr (.inr ⟨_, hen, ?_, hfit, (State.writeTlm_again hinv hfit).symm⟩))
    have hstored := State.writeTlm_byte_mem s s.lay.alm.off 0
      [putBit (s.byte .tlm s.lay.alm.off) (s.lay.alm.bit + idx.toNat) (flagBit w)] Nat.one_pos
    simp only [Nat.add_zero, List.getElem_cons_zero] at hstored
    simp only [State.respond_byte, State.respond_lay, State.writeTlm_lay, hstored, putBit_putBit _ _ hp]

/-- R35: a raw write of `TLM` writes the same byte again, below the same bound. -/
theorem twrb_again (hinv : s.Inv) (h : exec (.twrb idx w) s = .next t) : exec (.twrb idx w) t = .next t := by
  have hlay : t.lay = s.lay := (commandsWriteOnlyTheirSpace _ s t h).2.2 rfl
  have hagain := raise_or_again
    (k := fun u => Space.tlm.within idx.toNat 1 ((u.writeTlm idx.toNat [lowByte w]).answer 0#32)) (fun _ hstore => ?_) h
  · rwa [← hlay] at hagain
  · obtain ⟨hfit, hwrite⟩ := Space.within_eq_next.mp hstore
    obtain rfl := State.answer_eq_next _ |>.mp hwrite
    exact Space.within_eq_next.mpr ⟨hfit, State.answer_eq_next _ |>.mpr (State.writeTlm_again hinv hfit).symm⟩

/-- R35: clearing a cleared buffer is no change. -/
theorem tclr_again (hinv : s.Inv) (h : exec .tclr s = .next t) : exec .tclr t = .next t := by
  obtain rfl := State.answer_eq_next _ |>.mp h
  exact State.answer_eq_next _ |>.mpr (State.writeTlm_again hinv (by simp [Config.tlmSize])).symm

end Repetition

/-- Settles O20: a writer stores over what it stored, and the commands not named only respond. -/
theorem repeatedCommandsChangeNothingMore : Obligations.RepeatedCommandsChangeNothingMore := by
  intro i s t hinv h
  have hreader (hset : writesSet i = false) (htlm : writesTlm i = false) : exec i t = .next t := by
    obtain ⟨r, rfl⟩ := (exec_commandEnd h).eq_respond_of_reader hset htlm
    exact exec_again_of_respond h
  cases i with
  | ssetDyn => exact settingSetter_again .dyn hinv h
  | ssetAck => exact settingSetter_again .ack hinv h
  | ssetAckp => exact settingSetter_again .ackp hinv h
  | ssetRate => exact settingSetter_again .rate hinv h
  | ssetChan => exact settingSetter_again .chan hinv h
  | ssetPsz => exact settingSetter_again .psz hinv h
  | ssetFreq => exact settingSetter_again .freq hinv h
  | ssetRdly => exact settingSetter_again .rdly hinv h
  | ssetNch => exact settingSetter_again .nch hinv h
  | ssetChsz => exact settingSetter_again .chsz hinv h
  | ssetTmsk => exact settingSetter_again .tmsk hinv h
  | swrb => exact swrb_again hinv h
  | tsetBat => exact State.writeChannel_again (en := (·.bat.en)) (a := (·.bat.off)) hinv h
  | tsetCur => exact State.writeChannel_again (en := (·.cur.en)) (a := (·.cur.off)) hinv h
  | tsetTemp w =>
    exact State.writeChannel_again (en := (·.temp.en)) (a := (·.temp.off)) (operand := .ok [lowByte w]) hinv h
  | tsetRpm w =>
    exact State.writeChannel_again (en := (·.rpm.en)) (a := (·.rpm.off)) (operand := .ok (lowPair w)) hinv h
  | tsetGps idx w =>
    exact raise_or_again (k := fun u => u.writeFloat3 Config.params u.lay.gps idx.toNat w) (fun _ =>
      State.writeChannel_again (en := (·.gps.en)) (a := fun l => axisOffset l.gps idx.toNat) hinv) h
  | tsetAlm => exact tsetAlm_again hinv h
  | tclr => exact tclr_again hinv h
  | twrb => exact twrb_again hinv h
  | _ => exact hreader rfl rfl

end Sys2Proof.Machine

/-! O11, O14, O31 and O32: the reset record through the getters (R158), the model's own stop (log 5), and the read-back and
the bounds of the settings fields (R61, R27). They read the layers about getters, setters and channels. -/

namespace Sys2Proof.Machine

/-! ### Settings fields -/

section SettingsFields

variable (f : Setting) (v : Word)

/-- R61: the value that a setter's rule and its getter's rule leave of the operand. -/
theorem report_store : f.report ((f.store v).toNat % 2 ^ f.slot.width) = settingReadBack f v.toNat := by
  have hsub : (v - 1#32).toNat = if v.toNat = 0 then 2 ^ 32 - 1 else v.toNat - 1 := by
    split_ifs <;> bv_omega
  cases f with
  | psz =>
    simp only [Setting.report, Setting.store, toNat_clampPayload, Setting.slot, settingReadBack]
    omega
  | nch | chsz =>
    simp only [Setting.report, Setting.store, hsub, Setting.slot, settingReadBack]
    split_ifs <;> omega
  | _ => rfl

/-- R20, R61: a legal value is stored and reported as it is. -/
theorem settingReadBack_of_legal {n : Nat} (h : settingLegal f n) : settingReadBack f n = n := by
  cases f with
  | rate =>
    have hcode : n % 4 = n := Nat.mod_eq_of_lt (Nat.lt_of_le_of_lt h (by decide))
    have hreserved : n ≠ 3 := (Nat.lt_of_le_of_lt h (by decide)).ne
    simp only [settingReadBack, hcode, if_neg hreserved]
  | nch | chsz =>
    obtain ⟨hpos, hle⟩ := h
    simp only [settingReadBack, if_neg (Nat.ne_of_gt hpos)]
    omega
  | _ =>
    simp only [settingLegal] at h
    simp only [settingReadBack]
    omega

/-- R34: a setter keeps every bit outside its slice. -/
theorem State.WroteSet.getLsbD_of_outside {s t : State} {f : Setting} {v : Word}
    (h : s.WroteSet t f.slot.byte (f.slot.insert (s.byte .set f.slot.byte) v)) {a k : Nat}
    (houtside : ¬ (a = f.slot.byte ∧ f.slot.lo ≤ k ∧ k < f.slot.lo + f.slot.width)) :
    (t.byte .set a).getLsbD k = (s.byte .set a).getLsbD k := by
  obtain ⟨hbyte, hother, -⟩ := h
  by_cases ha : a = f.slot.byte
  · subst ha
    by_cases hk : k < 8
    · rw [hbyte, Slot.getLsbD_insert _ _ _ _ hk, if_neg fun hin => houtside ⟨rfl, hin⟩]
    · rw [BitVec.getLsbD_of_ge _ _ (Nat.le_of_not_lt hk), BitVec.getLsbD_of_ge _ _ (Nat.le_of_not_lt hk)]
  · rw [hother a ha]

end SettingsFields

/-- Settles O31, from what a setter writes and what its getter then reports. -/
theorem settingsReadBackWhatWasSet : Obligations.SettingsReadBackWhatWasSet := by
  intro f v s
  obtain ⟨t, hexec, hwrote, hget⟩ := settingSetter_writes f (s := s) (w := v) rfl
  have hreads := hget _ rfl
  rw [report_store] at hreads
  have htlm : t.tlm = s.tlm := by
    obtain ⟨-, -, htlm, -⟩ := hwrote
    exact htlm
  exact ⟨t, hexec, hreads, settingReadBack_of_legal f, fun a k => hwrote.getLsbD_of_outside, htlm⟩

/-- Settles O32: the payload size is clamped when it is read, and the retry delay is four bits. -/
theorem reportedSizesStayInBounds : Obligations.ReportedSizesStayInBounds := by
  intro s
  have hpsz : Setting.psz.report (s.getSetting .psz).toNat ≤ 32 := Nat.min_le_right _ _
  have hrdly : (s.getSetting .rdly).toNat < 2 ^ 4 := by
    rw [State.getSetting, Slot.toNat_extract]
    exact Nat.mod_lt _ (Nat.two_pow_pos 4)
  refine ⟨⟨_, exec_settingGetter .psz s, ?_⟩, ⟨_, exec_settingGetter .rdly s, ?_⟩⟩
  · rw [BitVec.toNat_ofNat]
    exact (Nat.mod_le _ _).trans hpsz
  · rw [BitVec.toNat_ofNat]
    exact (Nat.mod_le _ _).trans (Nat.le_of_lt_succ hrdly)

/-! ### The reset record -/

/-- R158: a settings field reads at reset what its getter reports of 0. -/
theorem exec_settingGetter_reset (f : Setting) :
    exec (settingGetter f) State.reset = .next (State.reset.respond ⟨.ok, BitVec.ofNat 32 (f.report 0)⟩) :=
  settingGetter_reads f (by simp)

theorem maskEnables_zero (f : Field) : maskEnables 0#8 f = false := by
  cases f <;> rfl

/-- R49: the identifiers below 6 name the six fields. -/
theorem exists_field {n : Nat} (h : n < 6) : ∃ f : Field, n = fieldNumber f := by
  by_cases halm : n = 5
  · exact ⟨.alm, halm⟩
  · obtain ⟨f, -, hf⟩ := exists_wholeByteField (show n < 5 by omega)
    exact ⟨f, hf⟩

/-- R158: no field is enabled at reset, and the entry of none is anything but zero. -/
theorem exec_query_reset {idx : Byte} (h : idx.toNat < 6) :
    exec (.ten idx) State.reset = .next (State.reset.respond ⟨.ok, 0#32⟩) ∧
      exec (.toff idx) State.reset = .next (State.reset.respond ⟨.ok, 0#32⟩) := by
  obtain ⟨f, hf⟩ := exists_field h
  obtain ⟨-, -, hlay⟩ := State.reset_inv
  have hentry : State.reset.lay.entry f = .disabled := by cases f <;> rfl
  constructor
  · rw [exec_ten hlay hf, State.reset_byte, maskEnables_zero]
    rfl
  · rw [exec_toff hf, hentry]
    rfl

/-- R134: an index beyond the record. -/
theorem exec_trdb_of_le {s : State} {idx : Byte} (h : s.lay.size ≤ idx.toNat) :
    exec (.trdb idx) s = .next (s.respond ⟨.errIndex, 0#32⟩) :=
  if_pos h

/-- Settles O11: every byte is 0 at reset, so every getter reports what it makes of 0; the record has no byte. -/
theorem resetRecordThroughEveryGetter : Obligations.ResetRecordThroughEveryGetter := by
  obtain ⟨-, -, hlay⟩ := State.reset_inv
  have hget := exec_settingGetter_reset
  have hzero := exec_getter_of_zero hlay (State.reset_byte .tlm)
  simp only [List.forall_mem_cons, List.not_mem_nil, false_implies, implies_true, and_true] at hzero
  obtain ⟨hbat, hcur, htemp, hrpm, hgps0, hgps1, hgps2, halm0, halm1, halm2⟩ := hzero
  refine ⟨?_, ?_, fun idx => exec_query_reset, fun idx hidx => ?_, fun idx => exec_trdb_of_le (Nat.zero_le _),
    fun idx hidx => ?_⟩
  · simp only [List.forall_mem_cons, List.not_mem_nil, false_implies, implies_true, and_true]
    exact ⟨hget .dyn, hget .ack, hget .ackp, hget .rate, hget .chan, hget .psz, hget .freq, hget .rdly, hget .tmsk, rfl,
      hbat, hcur, htemp, hrpm⟩
  · simp only [List.forall_mem_cons, List.not_mem_nil, false_implies, implies_true, and_true]
    exact ⟨hget .nch, hget .chsz⟩
  · obtain rfl | rfl | rfl : idx = 0#8 ∨ idx = 1#8 ∨ idx = 2#8 := by bv_omega
    · exact ⟨hgps0, halm0⟩
    · exact ⟨hgps1, halm1⟩
    · exact ⟨hgps2, halm2⟩
  · rw [exec_srdb_toNat hidx, State.reset_byte]
    rfl

/-! ### The model's own stop -/

section Stops

variable {s : State} {en : Bool} {a n : Nat} {v : Word} {bs : List Byte}

theorem State.readChannel_of_outside (hen : en = true) (hout : 17 < a + n) :
    s.readChannel en a n v = .fault (.noSuchByte .tlm a) := by
  rw [State.readChannel, if_pos hen, Space.within_of_lt hout]

theorem State.storeChannel_of_outside (hen : en = true) (hout : 17 < a + bs.length) :
    s.writeChannel en a (.ok bs) = .fault (.noSuchByte .tlm a) := by
  rw [State.writeChannel, if_pos hen, Space.within_of_lt hout]

/-- Battery and current: both accesses are to the two bytes at the entry's offset (R122 to R125). -/
theorem float2Channel_of_outside {e : LayEntry} {w : Word} (hen : e.en = true) (hout : 17 < e.off + 2) :
    s.readFloat2 e = .fault (.noSuchByte .tlm e.off) ∧
      (float2Bytes Config.params w = .ok bs → s.writeFloat2 Config.params e w = .fault (.noSuchByte .tlm e.off)) := by
  refine ⟨State.readChannel_of_outside hen hout, fun hbs => ?_⟩
  rw [State.writeFloat2, hbs, State.storeChannel_of_outside hen (by rwa [float2Bytes_length hbs])]

end Stops

/-- Settles O14: each of the commands accesses `TLM` where `LAY` positions it, and a check that it passes comes before. -/
theorem accessOutsideTheBufferStops : Obligations.AccessOutsideTheBufferStops := by
  intro s idx w bs
  refine ⟨?_, fun hen hout => ?_, fun hen hout => ?_, fun hidx hen hout => ?_, fun hidx halm hout => ?_,
    fun hout hsize => ?_⟩
  · simp only [List.forall_mem_cons, List.not_mem_nil, false_implies, implies_true, and_true]
    exact ⟨float2Channel_of_outside, float2Channel_of_outside⟩
  · exact ⟨State.readChannel_of_outside hen hout, State.storeChannel_of_outside (bs := [lowByte w]) hen hout⟩
  · exact ⟨State.readChannel_of_outside hen hout, State.storeChannel_of_outside (bs := lowPair w) hen hout⟩
  · refine ⟨(if_neg hidx.not_ge).trans (State.readChannel_of_outside hen hout), fun hbs => (if_neg hidx.not_ge).trans ?_⟩
    rw [State.writeFloat3, hbs, State.storeChannel_of_outside hen (by rwa [float3Bytes_length hbs])]
  · exact ⟨(if_neg hidx.not_ge).trans (State.readChannel_of_outside (decide_eq_true halm) hout),
      (if_neg hidx.not_ge).trans (State.storeChannel_of_outside (decide_eq_true halm) hout)⟩
  · have hlast : 17 < idx.toNat + 1 := Nat.lt_succ_of_le hout
    exact ⟨(if_neg hsize.not_ge).trans (Space.within_of_lt hlast), (if_neg hsize.not_ge).trans (Space.within_of_lt hlast)⟩

end Sys2Proof.Machine

/-! O35 and O36: where the layout walk puts each field (R86, R88, R90). A field's entry starts where the bytes of the enabled
fields before it end, so the record is the sum of what the enabled fields take; the closed form, the disjointness and the
covering of the record are read off these sums. -/

namespace Sys2Proof.Machine

section Positions

variable (mask : Byte)

/-- All fields in canonical order, the alarms last (R86). -/
def recordOrder : List Field := [.bat, .cur, .temp, .rpm, .gps, .alm]

/-- The bytes a field takes in the record: its size where the mask enables it. -/
def takenBytes (f : Field) : Nat := if maskEnables mask f then fieldBytes f else 0

/-- The bytes that the first `n` fields take. -/
def recordStart (n : Nat) : Nat := ((recordOrder.take n).map (takenBytes mask)).sum

/-! ### The sums -/

theorem recordStart_succ (f : Field) :
    recordStart mask (fieldNumber f + 1) = recordStart mask (fieldNumber f) + takenBytes mask f := by
  have hlt : fieldNumber f < recordOrder.length := by cases f <;> decide
  have hget : recordOrder[fieldNumber f] = f := by cases f <;> rfl
  rw [recordStart, List.take_succ_eq_append_getElem hlt, hget, List.map_append, List.sum_append]
  rfl

theorem recordStart_mono {n n' : Nat} (h : n ≤ n') : recordStart mask n ≤ recordStart mask n' :=
  ((List.take_sublist_take_left h).map (takenBytes mask)).sum_le_sum fun _ _ => Nat.zero_le _

/-- Every index of the record is one of a field. -/
theorem exists_field_at {a n : Nat} (hn : n ≤ 6) (ha : a < recordStart mask n) :
    ∃ f : Field, recordStart mask (fieldNumber f) ≤ a ∧ a < recordStart mask (fieldNumber f + 1) := by
  induction n with
  | zero => simp [recordStart] at ha
  | succ n ih =>
    by_cases hbefore : a < recordStart mask n
    · exact ih (by omega) hbefore
    · obtain ⟨f, rfl⟩ := exists_field (show n < 6 by omega)
      exact ⟨f, Nat.le_of_not_lt hbefore, ha⟩

/-! ### The walk of R86 -/

theorem walkField_off (k : LayoutWalk) {f : Field} (hf : f ≠ .alm) :
    (walkField mask k (f, fieldNumber f, fieldBytes f)).off = k.off + takenBytes mask f := by
  rw [walkField, takenBytes, maskEnables_wholeByte mask hf]
  split <;> rfl

theorem foldl_walkField_off (fs : List Field) (halm : .alm ∉ fs) (k : LayoutWalk) :
    ((fs.map fun g => (g, fieldNumber g, fieldBytes g)).foldl (walkField mask) k).off =
      k.off + (fs.map (takenBytes mask)).sum := by
  induction fs generalizing k with
  | nil => rfl
  | cons g gs ih =>
    obtain ⟨hg, hgs⟩ : .alm ≠ g ∧ .alm ∉ gs := by simpa using halm
    rw [List.map_cons, List.foldl_cons, ih hgs, walkField_off mask k hg.symm, List.map_cons, List.sum_cons, Nat.add_assoc]

theorem foldl_walkField_entry_of_not_mem {f : Field} (fs : List Field) (halm : .alm ∉ fs) (hf : f ∉ fs)
    (k : LayoutWalk) :
    ((fs.map fun g => (g, fieldNumber g, fieldBytes g)).foldl (walkField mask) k).lay.entry f = k.lay.entry f := by
  induction fs generalizing k with
  | nil => rfl
  | cons g gs ih =>
    obtain ⟨hg, hgs⟩ : .alm ≠ g ∧ .alm ∉ gs := by simpa using halm
    obtain ⟨hfg, hfgs⟩ : f ≠ g ∧ f ∉ gs := by simpa using hf
    rw [List.map_cons, List.foldl_cons, ih hgs hfgs, walkField_entry mask k hg.symm, if_neg hfg]

/-- A field that the loop meets once is placed behind the enabled fields before it. -/
theorem foldl_walkField_entry_at {f : Field} (before after : List Field)
    (honce : (.alm :: (before ++ f :: after)).Nodup) :
    (((before ++ f :: after).map fun g => (g, fieldNumber g, fieldBytes g)).foldl (walkField mask)
      ⟨.empty, 0, 0⟩).lay.entry f = placedEntry mask f (before.map (takenBytes mask)).sum := by
  obtain ⟨halm, hdistinct⟩ := List.nodup_cons.mp honce
  obtain ⟨hbefore, hf, hafter⟩ : .alm ∉ before ∧ .alm ≠ f ∧ .alm ∉ after := by simpa using halm
  obtain ⟨hbehind, -⟩ := List.nodup_cons.mp (List.nodup_append.mp hdistinct).2.1
  rw [List.map_append, List.foldl_append, List.map_cons, List.foldl_cons,
    foldl_walkField_entry_of_not_mem mask after hafter hbehind, walkField_entry mask _ hf.symm, if_pos rfl,
    foldl_walkField_off mask before hbefore, Nat.zero_add]

/-- Without a free bit the alarms, where there are any, take one byte more. -/
theorem placeAlarms_off {k : LayoutWalk} (hfree : k.free = 0) :
    (placeAlarms (alarmCount mask) k).off = k.off + takenBytes mask .alm := by
  by_cases hcount : alarmCount mask = 0
  · simp [placeAlarms, takenBytes, maskEnables, hcount]
  · simp [placeAlarms, takenBytes, maskEnables, hcount, hfree, fieldBytes]

theorem canonicalWalk_free : (canonicalOrder.foldl (walkField mask) ⟨.empty, 0, 0⟩).free = 0 :=
  foldl_walkField_free mask _ _ rfl

theorem canonicalWalk_off : (canonicalOrder.foldl (walkField mask) ⟨.empty, 0, 0⟩).off = recordStart mask 5 := by
  rw [canonicalOrder_eq, foldl_walkField_off mask _ (by decide), Nat.zero_add]
  rfl

/-- R88: the record is as long as its enabled fields together. -/
theorem layout_size : (layout mask).size = recordStart mask 6 :=
  calc (layout mask).size = recordStart mask 5 + takenBytes mask .alm := by
        rw [layout, placeAlarms_off mask (canonicalWalk_free mask), canonicalWalk_off]
    _ = recordStart mask 6 := (recordStart_succ mask .alm).symm

/-- R86, R88: a field starts where the enabled fields before it end. -/
theorem layout_entry_at (f : Field) : (layout mask).entry f = placedEntry mask f (recordStart mask (fieldNumber f)) := by
  have hsize (l : Lay) (n : Nat) : ({ l with size := n } : Lay).entry f = l.entry f := by cases f <;> rfl
  rw [layout, hsize, placeAlarms_entry mask (canonicalWalk_free mask)]
  cases f with
  | bat => exact foldl_walkField_entry_at mask (f := .bat) [] [.cur, .temp, .rpm, .gps] (by decide)
  | cur => exact foldl_walkField_entry_at mask (f := .cur) [.bat] [.temp, .rpm, .gps] (by decide)
  | temp => exact foldl_walkField_entry_at mask (f := .temp) [.bat, .cur] [.rpm, .gps] (by decide)
  | rpm => exact foldl_walkField_entry_at mask (f := .rpm) [.bat, .cur, .temp] [.gps] (by decide)
  | gps => exact foldl_walkField_entry_at mask (f := .gps) [.bat, .cur, .temp, .rpm] [] (by decide)
  | alm => rw [if_pos rfl, canonicalWalk_off]; rfl

end Positions

/-! ### The obligations -/

/-- The bytes of a field as R88 counts them: its size times its mask bit. -/
theorem takenBytes_wholeByte (mask : Byte) {f : Field} (hf : f ≠ .alm) :
    takenBytes mask f = fieldBytes f * (mask.getLsbD (fieldNumber f)).toNat := by
  rw [takenBytes, maskEnables_wholeByte mask hf]
  cases mask.getLsbD (fieldNumber f) <;> simp

theorem takenBytes_alm (mask : Byte) : takenBytes mask .alm = if 0 < alarmCount mask then 1 else 0 := by
  simp only [takenBytes, maskEnables, decide_eq_true_eq, Nat.pos_iff_ne_zero]
  rfl

/-- R88: a whole-byte field's entry, in terms of its mask bit and of where it starts. -/
theorem layout_wholeByteEntry (mask : Byte) {f : Field} (hf : f ≠ .alm) {off : Nat}
    (hoff : recordStart mask (fieldNumber f) = off) :
    (layout mask).entry f =
      if mask.getLsbD (fieldNumber f) then ⟨true, off, 0, 8 * fieldBytes f⟩ else ⟨false, 0, 0, 0⟩ := by
  have hbits : fieldBits mask f = 8 * fieldBytes f := by cases f <;> trivial
  rw [layout_entry_at, placedEntry, maskEnables_wholeByte mask hf, hoff, hbits]
  rfl

/-- R88: the alarms' entry, in terms of their count. -/
theorem layout_almEntry (mask : Byte) :
    (layout mask).alm =
      if 0 < alarmCount mask then ⟨true, recordStart mask 5, 0, alarmCount mask⟩ else ⟨false, 0, 0, 0⟩ := by
  have hentry : (layout mask).alm = placedEntry mask .alm (recordStart mask 5) := layout_entry_at mask .alm
  simp only [hentry, placedEntry, maskEnables, decide_eq_true_eq, Nat.pos_iff_ne_zero]
  rfl

/-- R88: where each field starts, and the record's size, in terms of the mask bits. -/
theorem recordStart_closed (mask : Byte) :
    let bit (k : Nat) : Nat := (mask.getLsbD k).toNat
    recordStart mask 1 = 2 * bit 0 ∧ recordStart mask 2 = 2 * bit 0 + 2 * bit 1 ∧
      recordStart mask 3 = 2 * bit 0 + 2 * bit 1 + bit 2 ∧ recordStart mask 4 = 2 * bit 0 + 2 * bit 1 + bit 2 + 2 * bit 3 ∧
      recordStart mask 5 = 2 * bit 0 + 2 * bit 1 + bit 2 + 2 * bit 3 + 9 * bit 4 ∧
      recordStart mask 6 =
        2 * bit 0 + 2 * bit 1 + bit 2 + 2 * bit 3 + 9 * bit 4 + (if 0 < alarmCount mask then 1 else 0) := by
  have hbytes {f : Field} (hf : f ≠ .alm) := takenBytes_wholeByte mask hf
  have hbat : takenBytes mask .bat = 2 * (mask.getLsbD 0).toNat := hbytes (by decide)
  have hcur : takenBytes mask .cur = 2 * (mask.getLsbD 1).toNat := hbytes (by decide)
  have htemp : takenBytes mask .temp = 1 * (mask.getLsbD 2).toNat := hbytes (by decide)
  have hrpm : takenBytes mask .rpm = 2 * (mask.getLsbD 3).toNat := hbytes (by decide)
  have hgps : takenBytes mask .gps = 9 * (mask.getLsbD 4).toNat := hbytes (by decide)
  have halm := takenBytes_alm mask
  simp only [recordStart, recordOrder, List.take_succ_cons, List.take_zero, List.map_cons, List.map_nil, List.sum_cons,
    List.sum_nil]
  omega

/-- Settles O35: each entry stands at the sum of the bytes before it, and the loop leaves no free bit. -/
theorem layoutClosedForm : Obligations.LayoutClosedForm := by
  intro mask
  obtain ⟨h1, h2, h3, h4, h5, h6⟩ := recordStart_closed mask
  have hbat : (layout mask).bat = _ := layout_wholeByteEntry mask (f := .bat) (by decide) rfl
  have hcur : (layout mask).cur = _ := layout_wholeByteEntry mask (f := .cur) (by decide) h1
  have htemp : (layout mask).temp = _ := layout_wholeByteEntry mask (f := .temp) (by decide) h2
  have hrpm : (layout mask).rpm = _ := layout_wholeByteEntry mask (f := .rpm) (by decide) h3
  have hgps : (layout mask).gps = _ := layout_wholeByteEntry mask (f := .gps) (by decide) h4
  have halm := layout_almEntry mask
  rw [h5] at halm
  have hsize := (layout_size mask).trans h6
  refine ⟨?_, canonicalWalk_free mask⟩
  calc layout mask = ⟨(layout mask).bat, (layout mask).cur, (layout mask).temp, (layout mask).rpm, (layout mask).gps,
        (layout mask).alm, (layout mask).size⟩ := rfl
    _ = _ := by rw [hbat, hcur, htemp, hrpm, hgps, halm, hsize]; rfl

/-- R90: a mask bit more never disables a field. -/
theorem maskEnables_mono {m1 m2 : Byte} (h : ∀ k, m1.getLsbD k = true → m2.getLsbD k = true) {f : Field}
    (hen : maskEnables m1 f = true) : maskEnables m2 f = true := by
  cases f with
  | alm =>
    rw [maskEnables_alm, decide_eq_true_eq] at hen ⊢
    refine fun hzero => hen (BitVec.eq_of_getLsbD_eq fun k hk => ?_)
    have hbit : m2.getLsbD (5 + k) = false := by
      have hk' := congrArg (BitVec.getLsbD · k) hzero
      simpa [BitVec.getLsbD_extractLsb', hk] using hk'
    have hbit' : m1.getLsbD (5 + k) = false := Bool.eq_false_iff.mpr fun htrue => absurd (h _ htrue) (by simp [hbit])
    simp [BitVec.getLsbD_extractLsb', hbit']
  | _ => exact h _ hen

theorem takenBytes_mono {m1 m2 : Byte} (h : ∀ k, m1.getLsbD k = true → m2.getLsbD k = true) (f : Field) :
    takenBytes m1 f ≤ takenBytes m2 f := by
  unfold takenBytes
  split_ifs with h1 h2
  · exact le_rfl
  · exact absurd (maskEnables_mono h h1) h2
  · exact Nat.zero_le _
  · exact le_rfl

/-- The bytes of an entry, as R90 counts them, are those the field takes. -/
theorem layout_entry_covers (mask : Byte) (f : Field) (a : Nat) :
    (((layout mask).entry f).en = true ∧ ((layout mask).entry f).off ≤ a ∧
      a < ((layout mask).entry f).off + (if f = .alm then 1 else ((layout mask).entry f).width / 8)) ↔
      recordStart mask (fieldNumber f) ≤ a ∧ a < recordStart mask (fieldNumber f + 1) := by
  rw [layout_entry_at, recordStart_succ, placedEntry, takenBytes]
  cases maskEnables mask f with
  | false => simp [LayEntry.disabled]
  | true =>
    have hbytes : (if f = .alm then 1 else fieldBits mask f / 8) = fieldBytes f := by
      cases f <;> simp [fieldBits, fieldBytes]
    simp [hbytes]

/-- R49: no two fields have one identifier, as the record's order gives the field back. -/
theorem fieldNumber_injective : Function.Injective fieldNumber :=
  Function.LeftInverse.injective (g := fun n => recordOrder.getD n .bat) fun f => by cases f <;> rfl

/-- Settles O36: the record and a field's place in it are sums of taken bytes, which no mask bit makes smaller; of two
fields the later one starts behind the earlier one. -/
theorem layoutProperties : Obligations.LayoutProperties := by
  refine ⟨fun m1 m2 hsub => ?_, fun m => ?_, fun m a => ?_⟩
  · rw [layout_size, layout_size]
    exact List.sum_le_sum fun f _ => takenBytes_mono hsub f
  · rw [layout_almEntry]
    split_ifs with hcount
    · rfl
    · exact (Nat.eq_zero_of_not_pos hcount).symm
  · dsimp only
    simp only [layout_entry_covers, layout_size]
    constructor
    · rintro f g ⟨hf, hf'⟩ ⟨hg, hg'⟩
      have hbefore {f g : Field} (hlt : fieldNumber f < fieldNumber g) (hf' : a < recordStart m (fieldNumber f + 1))
          (hg : recordStart m (fieldNumber g) ≤ a) : False :=
        (hf'.trans_le (recordStart_mono m hlt)).not_ge hg
      obtain hlt | heq | hgt := Nat.lt_trichotomy (fieldNumber f) (fieldNumber g)
      · exact (hbefore hlt hf' hg).elim
      · exact fieldNumber_injective heq
      · exact (hbefore hgt hg' hf).elim
    · refine ⟨fun ⟨f, _, hf⟩ => hf.trans_le (recordStart_mono m ?_), exists_field_at m le_rfl⟩
      cases f <;> decide

end Sys2Proof.Machine

/-! O39 and O43 to O47: rounding and the two encoders on exact numbers (R13, R102 to R109). Rounding is a floor, which says
which numbers an encoder accepts and how far it moves them; a round trip is exact where an exponent in range is, and both
formats read the one lemma about the search. -/

namespace Sys2Proof.Machine

/-! ### Rounding -/

section Rounding

theorem halfUp_eq_floor (n d : Nat) : (halfUp n d : ℤ) = ⌊(n : ℚ) / 2 ^ d + 1 / 2⌋ := by
  have hfraction : (n : ℚ) / 2 ^ d + 1 / 2 = ((2 * n + 2 ^ d : ℕ) : ℚ) / ((2 ^ (d + 1) : ℕ) : ℚ) := by
    push_cast
    rw [pow_succ]
    field_simp
  rw [hfraction, halfUp, Rat.floor_natCast_div_natCast, Int.natCast_ediv]

theorem Dyad.toRat_nonneg_iff {q : Dyad} : 0 ≤ q.toRat ↔ 0 ≤ q.num := by
  rw [Dyad.toRat, le_div_iff₀ (by positivity), zero_mul, Int.cast_nonneg_iff]

/-- Settles O39: the magnitude is `halfUp`, which is the floor. -/
theorem roundingIsHalfAwayFromZero : Obligations.RoundingIsHalfAwayFromZero := by
  intro q
  simp only [roundHAZ, halfUp_eq_floor, Dyad.toRat_nonneg_iff]
  split_ifs with hsign
  · rw [Dyad.toRat, Nat.cast_natAbs, abs_of_nonneg hsign]
  · rw [Dyad.toRat, Nat.cast_natAbs, abs_of_neg (not_le.mp hsign), Int.cast_neg, neg_div]

/-- Rounding moves a number by at most one half. -/
theorem abs_roundHAZ_sub_le (q : Dyad) : |(roundHAZ q : ℚ) - q.toRat| ≤ 1 / 2 := by
  have hfloor (a : ℚ) : (⌊a⌋ : ℚ) ≤ a ∧ a < ⌊a⌋ + 1 := ⟨Int.floor_le a, Int.lt_floor_add_one a⟩
  rw [roundingIsHalfAwayFromZero q, abs_le]
  split_ifs
  · obtain ⟨hle, hlt⟩ := hfloor (q.toRat + 1 / 2)
    constructor <;> linarith
  · obtain ⟨hle, hlt⟩ := hfloor (-q.toRat + 1 / 2)
    push_cast
    constructor <;> linarith

/-- The negated number. -/
def Dyad.neg (x : Dyad) : Dyad := ⟨-x.num, x.den⟩

theorem Dyad.toRat_neg (x : Dyad) : x.neg.toRat = -x.toRat := by
  simp [Dyad.toRat, Dyad.neg, neg_div]

theorem Dyad.scale_neg (x : Dyad) (e : Nat) : x.neg.scale e = (x.scale e).neg := by
  simp [Dyad.scale, Dyad.neg]

/-- Ties go away from zero on both sides, so rounding is odd (R13). -/
theorem roundHAZ_neg (q : Dyad) : roundHAZ q.neg = -roundHAZ q := by
  simp only [roundHAZ, Dyad.neg, Int.natAbs_neg]
  obtain hneg | hzero | hpos := lt_trichotomy q.num 0
  · simp [hneg.le, hneg.not_ge]
  · have hround : halfUp 0 q.den = 0 := by simpa using halfUp_mul_two_pow 0 q.den
    simp [hzero, hround]
  · simp [hpos.le, hpos.not_ge]

/-- What rounds to at most a bound that is not negative. -/
theorem roundHAZ_le_iff {q : Dyad} {hi : ℤ} (hhi : 0 ≤ hi) : roundHAZ q ≤ hi ↔ q.toRat < hi + 1 / 2 := by
  have hhi' : (0 : ℚ) ≤ hi := by exact_mod_cast hhi
  rw [roundingIsHalfAwayFromZero q]
  split_ifs with hsign
  · rw [Int.floor_le_iff]
    constructor <;> intro h <;> linarith
  · have hfloor : 0 ≤ ⌊-q.toRat + 1 / 2⌋ := Int.floor_nonneg.mpr (by linarith)
    exact iff_of_true (by omega) (by linarith)

theorem le_roundHAZ_iff {q : Dyad} {lo : ℤ} (hlo : lo ≤ 0) : lo ≤ roundHAZ q ↔ lo - 1 / 2 < q.toRat := by
  have hneg : roundHAZ q.neg ≤ -lo ↔ q.neg.toRat < ((-lo : ℤ) : ℚ) + 1 / 2 := roundHAZ_le_iff (by omega)
  rw [roundHAZ_neg, Dyad.toRat_neg, neg_le_neg_iff, Int.cast_neg] at hneg
  rw [hneg]
  constructor <;> intro h <;> linarith

end Rounding

/-! ### What the search accepts and keeps -/

section Encoding

variable {p : ExpPolicy} {x : Dyad} {lo hi : ℤ} {cands : List Nat} {c : FloatCode} {e : Nat}

/-- R109: which numbers are in range at exponent 0. -/
theorem inRange_zero_iff (hlo : lo ≤ 0) (hhi : 0 ≤ hi) :
    inRange x lo hi 0 ↔ lo - 1 / 2 < x.toRat ∧ x.toRat < hi + 1 / 2 := by
  rw [inRange, le_roundHAZ_iff hlo, roundHAZ_le_iff hhi, Dyad.toRat_scale, pow_zero, mul_one]

/-- Some exponent of the format at which `x` is in range is exact: `x` is a number of the format (R108). -/
def Representable (x : Dyad) (cands : List Nat) (lo hi : ℤ) : Prop := ∃ e ∈ cands, inRange x lo hi e ∧ exactAt x e

/-- A search that finds a code keeps the exponent of `Chosen`, with the rounded mantissa. -/
theorem chosen_of_search (hasc : cands.Pairwise (· < ·)) (hlo : lo ≤ 0) (hhi : 0 ≤ hi)
    (h : search p x cands lo hi = some c) : Chosen p x lo hi cands c.e ∧ c = x.codeAt c.e := by
  have hin : ∃ e ∈ cands, inRange x lo hi e := by
    by_contra hout
    have hnone : search p x cands lo hi = none := searchFrom_of_none_inRange fun e he hin => hout ⟨e, he, hin⟩
    simp [hnone] at h
  obtain ⟨e, hchosen, hsearch⟩ := searchFrom_chosen (p := p) (best := none) hasc hlo hhi hin
  obtain rfl : x.codeAt e = c := Option.some.inj (hsearch.symm.trans h)
  exact ⟨hchosen, rfl⟩

/-- R102: with exponent 0 a candidate, the search gives up exactly when `x` is out of range there. -/
theorem search_eq_none_iff (hasc : cands.Pairwise (· < ·)) (hzero : 0 ∈ cands) (hlo : lo ≤ 0) (hhi : 0 ≤ hi) :
    search p x cands lo hi = none ↔ ¬ inRange x lo hi 0 := by
  constructor
  · intro hnone hin
    obtain ⟨e, -, hsearch⟩ := searchFrom_chosen (p := p) (best := none) hasc hlo hhi ⟨0, hzero, hin⟩
    simp [search, hsearch] at hnone
  · exact fun hout => searchFrom_of_none_inRange fun e _ hin => hout (inRange_of_le hlo hhi (Nat.zero_le e) hin)

theorem decodeFloat_codeAt (x : Dyad) (e : Nat) : (decodeFloat (x.codeAt e)).toRat = roundHAZ (x.scale e) / 2 ^ e := rfl

/-- At an exact exponent decoding gives the number back. -/
theorem decodeFloat_codeAt_of_exactAt (h : exactAt x e) : (decodeFloat (x.codeAt e)).toRat = x.toRat := by
  rw [decodeFloat_codeAt, roundHAZ_of_exactAt h, mul_div_assoc, div_self (by positivity), mul_one]

/-- Half a unit of the mantissa is `2^-(e+1)`. -/
theorem abs_decodeFloat_codeAt_sub_le (x : Dyad) (e : Nat) :
    |(decodeFloat (x.codeAt e)).toRat - x.toRat| ≤ 1 / 2 ^ (e + 1) := by
  have hround := abs_roundHAZ_sub_le (x.scale e)
  have hunit : (decodeFloat (x.codeAt e)).toRat - x.toRat = (roundHAZ (x.scale e) - (x.scale e).toRat) / 2 ^ e := by
    rw [decodeFloat_codeAt, Dyad.toRat_scale]
    field_simp
  rw [hunit, abs_div, abs_of_pos (by positivity : (0 : ℚ) < 2 ^ e), pow_succ,
    div_le_div_iff₀ (by positivity) (by positivity)]
  nlinarith [show (0 : ℚ) < 2 ^ e by positivity]

/-- R108: a number of the format comes back exactly; any other is rounded at the largest exponent in range. -/
theorem search_roundTrip (hasc : cands.Pairwise (· < ·)) (hlo : lo ≤ 0) (hhi : 0 ≤ hi)
    (h : search p x cands lo hi = some c) :
    (Representable x cands lo hi → (decodeFloat c).toRat = x.toRat) ∧
      (¬ Representable x cands lo hi → (∀ e ∈ cands, inRange x lo hi e → e ≤ c.e) ∧ c.m = roundHAZ (x.scale c.e) ∧
        |(decodeFloat c).toRat - x.toRat| ≤ 1 / 2 ^ (c.e + 1)) := by
  obtain ⟨hchosen, hcode⟩ := chosen_of_search hasc hlo hhi h
  constructor
  · intro hrep
    rw [hcode]
    exact decodeFloat_codeAt_of_exactAt (hchosen.exactAt_of_exists hrep)
  · intro hnot
    refine ⟨hchosen.largest fun hexact => hnot ⟨c.e, hchosen.mem, hchosen.in_range, hexact.2⟩, ?_, ?_⟩
    · exact congrArg FloatCode.m hcode
    · rw [hcode]
      exact abs_decodeFloat_codeAt_sub_le x c.e

/-- An exact exponent in range is one at which the number is an integer within the bounds. -/
theorem inRange_and_exactAt_iff : inRange x lo hi e ∧ exactAt x e ↔ ∃ k : ℤ, x.toRat * 2 ^ e = k ∧ lo ≤ k ∧ k ≤ hi := by
  constructor
  · rintro ⟨⟨hle, hge⟩, hexact⟩
    exact ⟨_, (roundHAZ_of_exactAt hexact).symm, hle, hge⟩
  · rintro ⟨k, hk, hle, hge⟩
    have hround : roundHAZ (x.scale e) = k := by
      exact_mod_cast (roundHAZ_of_exactAt ⟨k, hk⟩).trans hk
    exact ⟨⟨hround ▸ hle, hround ▸ hge⟩, k, hk⟩

/-- R108 (e): a decoded value is a number of the format, so it encodes again and to itself. -/
theorem search_decodeFloat (hasc : cands.Pairwise (· < ·)) (hlo : lo ≤ 0) (hhi : 0 ≤ hi)
    (h : search p x cands lo hi = some c) :
    ∃ c', search p (decodeFloat c) cands lo hi = some c' ∧ (decodeFloat c').toRat = (decodeFloat c).toRat := by
  obtain ⟨hchosen, hcode⟩ := chosen_of_search hasc hlo hhi h
  have hmantissa : lo ≤ c.m ∧ c.m ≤ hi := by
    rw [hcode]
    exact hchosen.in_range
  have hrep : Representable (decodeFloat c) cands lo hi := by
    refine ⟨c.e, hchosen.mem, inRange_and_exactAt_iff.mpr ⟨c.m, ?_, hmantissa⟩⟩
    rw [Dyad.toRat, decodeFloat, div_mul_cancel₀ _ (by positivity)]
  have ⟨e, hmem, hin, _⟩ := hrep
  obtain ⟨e', -, hsearch⟩ := searchFrom_chosen (p := p) (best := none) hasc hlo hhi ⟨e, hmem, hin⟩
  exact ⟨_, hsearch, (search_roundTrip hasc hlo hhi hsearch).1 hrep⟩

/-- R103: both policies accept the same numbers, and their codes decode alike. -/
theorem search_of_search (hasc : cands.Pairwise (· < ·)) (hlo : lo ≤ 0) (hhi : 0 ≤ hi)
    (h : search p x cands lo hi = some c) (p' : ExpPolicy) :
    ∃ c', search p' x cands lo hi = some c' ∧ (decodeFloat c').toRat = (decodeFloat c).toRat := by
  obtain ⟨hchosen, hcode⟩ := chosen_of_search hasc hlo hhi h
  have hin : ∃ e ∈ cands, inRange x lo hi e := ⟨c.e, hchosen.mem, hchosen.in_range⟩
  by_cases hrep : Representable x cands lo hi
  · obtain ⟨e', -, hsearch⟩ := searchFrom_chosen (p := p') (best := none) hasc hlo hhi hin
    have hvalue := (search_roundTrip hasc hlo hhi hsearch).1 hrep
    exact ⟨_, hsearch, hvalue.trans ((search_roundTrip hasc hlo hhi h).1 hrep).symm⟩
  · obtain ⟨-, -, -, hinexact⟩ := searchFollowsItsTable x cands lo hi hasc hlo hhi
    obtain ⟨c', hboth, -⟩ := hinexact hin fun e he hin hexact => hrep ⟨e, he, hin, hexact⟩
    obtain rfl : c = c' := Option.some.inj (h.symm.trans (hboth p))
    exact ⟨c, hboth p', rfl⟩

/-! ### Symmetry -/

/-- The code of the negated number. -/
def FloatCode.neg (c : FloatCode) : FloatCode := ⟨-c.m, c.e⟩

theorem codeAt_neg (x : Dyad) (e : Nat) : x.neg.codeAt e = (x.codeAt e).neg := by
  rw [Dyad.codeAt, Dyad.scale_neg, roundHAZ_neg]
  rfl

theorem inRange_neg_iff {b : ℤ} : inRange x.neg (-b) b e ↔ inRange x (-b) b e := by
  rw [inRange, inRange, Dyad.scale_neg, roundHAZ_neg]
  omega

theorem exactAt_neg_iff : exactAt x.neg e ↔ exactAt x e := by
  have himp {y : Dyad} : exactAt y e → exactAt y.neg e := fun ⟨k, hk⟩ =>
    ⟨-k, by rw [Dyad.toRat_neg, neg_mul, hk, Int.cast_neg]⟩
  have hneg : x.neg.neg = x := by simp [Dyad.neg]
  exact ⟨fun h => hneg ▸ himp h, himp⟩

/-- R108 (f): with symmetric bounds the loop runs alike on the negated number. -/
theorem searchFrom_neg (b : ℤ) (best : Option FloatCode) :
    searchFrom p x.neg (-b) b cands (best.map FloatCode.neg) = (searchFrom p x (-b) b cands best).map FloatCode.neg := by
  induction cands generalizing best with
  | nil => rfl
  | cons e rest ih =>
    by_cases hin : inRange x (-b) b e
    · have hin' := inRange_neg_iff.mpr hin
      by_cases hreturn : p = .smallestExact ∧ exactAt x e
      · rw [searchFrom_cons_of_return hin hreturn, searchFrom_cons_of_return hin' (by rwa [exactAt_neg_iff]), codeAt_neg]
        rfl
      · rw [searchFrom_cons_of_continue hin hreturn, searchFrom_cons_of_continue hin' (by rwa [exactAt_neg_iff]), codeAt_neg,
          ← ih]
        rfl
    · rw [searchFrom_cons_of_not_inRange hin, searchFrom_cons_of_not_inRange (mt inRange_neg_iff.mp hin)]

end Encoding

/-! ### The two formats -/

section Formats

variable {p : ExpPolicy} {x : Dyad} {c : FloatCode}

theorem float3Exps_ascending : float3Exps.Pairwise (· < ·) := List.pairwise_lt_range

theorem float2Exps_ascending : float2Exps.Pairwise (· < ·) :=
  List.pairwise_lt_range.map _ fun _ _ h => by omega

theorem mem_float3Exps {e : Nat} : e ∈ float3Exps ↔ e ≤ 255 := by
  rw [float3Exps, List.mem_range, Nat.lt_succ_iff]

theorem mem_float2Exps {e : Nat} : e ∈ float2Exps ↔ ∃ k ≤ 15, 2 * k = e := by
  simp [float2Exps, Nat.lt_succ_iff]

theorem enc3_eq_none_iff : enc3 p x = none ↔ (65535 / 2 : ℚ) ≤ x.toRat ∨ x.toRat ≤ -(65537 / 2 : ℚ) := by
  rw [enc3, search_eq_none_iff float3Exps_ascending (by simp [mem_float3Exps]) (by decide) (by decide),
    inRange_zero_iff (by decide) (by decide), not_and_or, not_lt, not_lt, or_comm]
  norm_num

theorem enc2_eq_none_iff : enc2 p x = none ↔ (4095 / 2 : ℚ) ≤ |x.toRat| := by
  rw [enc2, search_eq_none_iff float2Exps_ascending (by simp [mem_float2Exps]) (by decide) (by decide),
    inRange_zero_iff (by decide) (by decide), not_and_or, not_lt, not_lt, le_abs, or_comm, le_neg]
  norm_num

/-- A Float3 code found has the format's mantissa and exponent (R104). -/
theorem isFloat3_of_enc3 (h : enc3 p x = some c) : c.IsFloat3 := by
  obtain ⟨hchosen, hcode⟩ := chosen_of_search float3Exps_ascending (by decide) (by decide) h
  rw [hcode]
  exact ⟨hchosen.in_range.1, hchosen.in_range.2, mem_float3Exps.mp hchosen.mem⟩

/-- A Float2 code found has the format's mantissa and exponent, and its mantissa is never -2048 (R106). -/
theorem isFloat2_of_enc2 (h : enc2 p x = some c) : c.IsFloat2 ∧ c.m ≠ -2048 := by
  obtain ⟨hchosen, hcode⟩ := chosen_of_search float2Exps_ascending (by decide) (by decide) h
  obtain ⟨k, hk, he⟩ := mem_float2Exps.mp hchosen.mem
  have hmantissa : -2047 ≤ c.m ∧ c.m ≤ 2047 := by
    rw [hcode]
    exact hchosen.in_range
  exact ⟨⟨by omega, hmantissa.2, by omega, by omega⟩, by omega⟩

end Formats

/-- Settles O43, by `search_of_search`. -/
theorem decodedValueIgnoresThePolicy : Obligations.DecodedValueIgnoresThePolicy :=
  fun _ _ _ _ _ p' _ hasc hlo hhi h => search_of_search hasc hlo hhi h p'

/-- Settles O44, from the range at exponent 0 and the range of the exponent kept. -/
theorem encodersAcceptTheirRange : Obligations.EncodersAcceptTheirRange :=
  fun _ _ => ⟨enc3_eq_none_iff, enc2_eq_none_iff, fun _ => isFloat3_of_enc3, fun _ => isFloat2_of_enc2⟩

/-- Settles O45: the statement's numbers of the format are those of `Representable`. -/
theorem float3RoundTrip : Obligations.Float3RoundTrip := by
  intro p x c h
  have hrep : (∃ e0 ≤ 255, ∃ k : ℤ, x.toRat * 2 ^ e0 = k ∧ -32768 ≤ k ∧ k ≤ 32767) ↔
      Representable x float3Exps (-32768) 32767 := by
    simp only [Representable, inRange_and_exactAt_iff, mem_float3Exps]
  obtain ⟨hexact, hrounded⟩ := search_roundTrip float3Exps_ascending (by decide) (by decide) h
  simp only [hrep]
  exact ⟨hexact, fun hnot => (hrounded hnot).imp_left fun hmax e he => hmax e (mem_float3Exps.mpr he)⟩

/-- Settles O46: the candidates are the even exponents, so the statement's `4^e0` is `2^e` of a candidate `e`. -/
theorem float2RoundTrip : Obligations.Float2RoundTrip := by
  intro p x c h
  have hrep : (∃ e0 ≤ 15, ∃ k : ℤ, x.toRat * 4 ^ e0 = k ∧ -2047 ≤ k ∧ k ≤ 2047) ↔
      Representable x float2Exps (-2047) 2047 := by
    have hpow (e : Nat) : (2 : ℚ) ^ (2 * e) = 4 ^ e := by rw [pow_mul]; norm_num
    simp only [Representable, inRange_and_exactAt_iff, mem_float2Exps]
    constructor
    · rintro ⟨e0, he0, hk⟩
      exact ⟨2 * e0, ⟨e0, he0, rfl⟩, by rwa [hpow]⟩
    · rintro ⟨_, ⟨e0, he0, rfl⟩, hk⟩
      exact ⟨e0, he0, by rwa [hpow] at hk⟩
  simp only [hrep]
  exact search_roundTrip float2Exps_ascending (by decide) (by decide) h

/-- R108 (d): an integer of the format is exact at exponent 0, where the search starts. -/
theorem enc2_integer {n : ℤ} (hlo : -2047 ≤ n) (hhi : n ≤ 2047) : enc2 .smallestExact ⟨n, 0⟩ = some ⟨n, 0⟩ := by
  have hvalue : (⟨n, 0⟩ : Dyad).toRat * 2 ^ 0 = n := by simp [Dyad.toRat]
  obtain ⟨hin, hexact⟩ := inRange_and_exactAt_iff.mpr ⟨n, hvalue, hlo, hhi⟩
  have hround : roundHAZ ((⟨n, 0⟩ : Dyad).scale 0) = n := roundHAZ_of_isInt (by simp [Dyad.isInt, Dyad.scale])
  calc enc2 .smallestExact ⟨n, 0⟩ = some ((⟨n, 0⟩ : Dyad).codeAt 0) := searchFrom_cons_of_return hin ⟨rfl, hexact⟩
    _ = some ⟨n, 0⟩ := by rw [Dyad.codeAt, hround]

/-- Settles O47, by the integers at exponent 0, `search_decodeFloat` for both formats, and `searchFrom_neg`. -/
theorem floatLaws : Obligations.FloatLaws :=
  ⟨fun _ => enc2_integer, by decide, by decide,
    fun _ _ _ => search_decodeFloat float3Exps_ascending (by decide) (by decide),
    fun _ _ _ => search_decodeFloat float2Exps_ascending (by decide) (by decide),
    fun _ n d => searchFrom_neg (x := ⟨n, d⟩) 2047 none⟩

end Sys2Proof.Machine

/-! O40 and O41: the binary32 words of the port (R111 to R113). The two conversions meet in the three fields of a word: R112
gives the number the fields stand for, and `realToB32` is said as the fields it packs, in the normal and in the subnormal
range. That `realToB32` reads no more of a dyad than the number is a lemma of its own. -/

namespace Sys2Proof.Machine

/-! ### The number of a word -/

section Reading

/-- `(-1)^s` as a factor. -/
def signFactor (s : Bool) : ℚ := if s then -1 else 1

theorem signedNat_cast (s : Bool) (a : Nat) : (signedNat s a : ℚ) = signFactor s * a := by
  cases s <;> simp [signedNat, signFactor]

variable {w : Word}

/-- R112: exponent field 255 is no number. -/
theorem b32ToReal_of_special (hx : (w.extractLsb' 23 8).toNat = 255) :
    b32ToReal w = if (w.extractLsb' 0 23).toNat = 0 then .inf else .nan := by
  simp only [b32ToReal, hx, if_pos]

/-- R112: exponent field 0 counts units of `2^-149`. -/
theorem b32ToReal_of_subnormal (hx : (w.extractLsb' 23 8).toNat = 0) :
    ∃ y, b32ToReal w = .real y ∧
      y.toRat = signFactor (w.getLsbD 31) * (w.extractLsb' 0 23).toNat * (2 : ℚ) ^ (-149 : ℤ) := by
  refine ⟨⟨signedNat (w.getLsbD 31) (w.extractLsb' 0 23).toNat, 149⟩, by simp [b32ToReal, hx], ?_⟩
  rw [Dyad.toRat, signedNat_cast, zpow_neg, div_eq_mul_inv]
  rfl

/-- R112: any other exponent field scales a fraction with its leading one. -/
theorem b32ToReal_of_normal (hx : 1 ≤ (w.extractLsb' 23 8).toNat) (hx' : (w.extractLsb' 23 8).toNat ≤ 254) :
    ∃ y, b32ToReal w = .real y ∧ y.toRat =
      signFactor (w.getLsbD 31) * (2 ^ 23 + (w.extractLsb' 0 23).toNat) *
        (2 : ℚ) ^ (((w.extractLsb' 23 8).toNat : ℤ) - 150) := by
  have hspecial : (w.extractLsb' 23 8).toNat ≠ 255 := by omega
  have hsubnormal : (w.extractLsb' 23 8).toNat ≠ 0 := by omega
  simp only [b32ToReal, if_neg hspecial, if_neg hsubnormal]
  split_ifs with hlarge
  · obtain ⟨d, hd⟩ := Nat.exists_eq_add_of_le hlarge
    refine ⟨_, rfl, ?_⟩
    rw [Dyad.toRat, signedNat_cast, hd]
    push_cast
    rw [Nat.add_sub_cancel_left, add_sub_cancel_left, zpow_natCast, pow_zero, div_one, mul_assoc]
    norm_num
  · obtain ⟨d, hd⟩ := Nat.exists_eq_add_of_le (Nat.le_of_not_le hlarge)
    have hexp : 150 - (w.extractLsb' 23 8).toNat = d := by omega
    have hexp' : ((w.extractLsb' 23 8).toNat : ℤ) - 150 = -d := by omega
    refine ⟨_, rfl, ?_⟩
    rw [Dyad.toRat, signedNat_cast, hexp, hexp', zpow_neg, zpow_natCast, div_eq_mul_inv]
    push_cast
    rfl

/-- R112: every word whose exponent field is not 255 is a number. -/
theorem b32ToReal_of_number (hx : (w.extractLsb' 23 8).toNat ≠ 255) : ∃ y, b32ToReal w = .real y := by
  have hbound : (w.extractLsb' 23 8).toNat < 2 ^ 8 := BitVec.isLt _
  by_cases hzero : (w.extractLsb' 23 8).toNat = 0
  · exact (b32ToReal_of_subnormal hzero).imp fun _ h => h.1
  · exact (b32ToReal_of_normal (by omega) (by omega)).imp fun _ h => h.1

end Reading

/-- Settles O40, by the three kinds of exponent field. -/
theorem binary32WordsAreExact : Obligations.Binary32WordsAreExact := by
  intro w
  refine ⟨fun hx hf => ?_, fun hx hf => ?_, b32ToReal_of_subnormal, b32ToReal_of_normal⟩
  · rw [b32ToReal_of_special hx, if_pos hf]
  · rw [b32ToReal_of_special hx, if_neg hf]

/-! ### The fields of a packed word -/

section Fields

variable (s : Bool) {x f : Nat}

/-- R111: the three fields as one number. -/
theorem toNat_b32Word (hx : x < 256) (hf : f < 2 ^ 23) :
    (b32Word s x f).toNat = 2 ^ 31 * s.toNat + 2 ^ 23 * x + f := by
  simp only [b32Word, toNat_append_eq_add, BitVec.toNat_ofNat, BitVec.toNat_ofBool]
  omega

theorem b32Word_sign (hx : x < 256) (hf : f < 2 ^ 23) : (b32Word s x f).getLsbD 31 = s := by
  have hs : s.toNat ≤ 1 := s.toNat_le
  have hbit : (b32Word s x f).toNat / 2 ^ 31 % 2 = s.toNat := by
    rw [toNat_b32Word s hx hf]
    omega
  rw [← BitVec.testBit_toNat, Nat.testBit_eq_decide_div_mod_eq, hbit]
  cases s <;> rfl

theorem b32Word_exponent (hx : x < 256) (hf : f < 2 ^ 23) : ((b32Word s x f).extractLsb' 23 8).toNat = x := by
  rw [BitVec.extractLsb'_toNat, Nat.shiftRight_eq_div_pow, toNat_b32Word s hx hf]
  omega

theorem b32Word_fraction (hx : x < 256) (hf : f < 2 ^ 23) : ((b32Word s x f).extractLsb' 0 23).toNat = f := by
  rw [BitVec.extractLsb'_toNat, Nat.shiftRight_eq_div_pow, toNat_b32Word s hx hf]
  omega

end Fields

/-! ### Rounding to the nearest even -/

/-- R113: the nearest integer, a tie to the even one. -/
theorem roundNearestEven_nearest (n : Nat) {d : Nat} (hd : 0 < d) :
    |(roundNearestEven n d : ℚ) - n / d| ≤ 1 / 2 ∧
      (|(roundNearestEven n d : ℚ) - n / d| = 1 / 2 → roundNearestEven n d % 2 = 0) := by
  have hd' : (0 : ℚ) < d := by exact_mod_cast hd
  have hfraction : (n : ℚ) / d = (n / d : ℕ) + (n % d : ℕ) / d := by
    rw [div_eq_iff hd'.ne', add_mul, div_mul_cancel₀ _ hd'.ne']
    exact_mod_cast (Nat.div_add_mod' n d).symm
  have hrest : (n % d : ℕ) / (d : ℚ) < 1 := (div_lt_one hd').mpr (by exact_mod_cast Nat.mod_lt n hd)
  have hrest' : (0 : ℚ) ≤ (n % d : ℕ) / (d : ℚ) := by positivity
  rw [hfraction]
  simp only [roundNearestEven]
  split_ifs with hbelow habove
  · have hhalf : (n % d : ℕ) / (d : ℚ) < 1 / 2 := by
      rw [div_lt_div_iff₀ hd' two_pos]
      exact_mod_cast (by omega : n % d * 2 < 1 * d)
    rw [sub_add_cancel_left, abs_neg, abs_of_nonneg hrest']
    exact ⟨hhalf.le, fun h => absurd h hhalf.ne⟩
  · have hhalf : 1 / 2 < (n % d : ℕ) / (d : ℚ) := by
      rw [div_lt_div_iff₀ two_pos hd']
      exact_mod_cast (by omega : 1 * d < n % d * 2)
    push_cast
    rw [add_sub_add_left_eq_sub, abs_of_nonneg (by linarith)]
    exact ⟨by linarith, fun h => by linarith⟩
  · have hhalf : (n % d : ℕ) / (d : ℚ) = 1 / 2 := by
      rw [div_eq_div_iff hd'.ne' two_ne_zero]
      exact_mod_cast (by omega : n % d * 2 = 1 * d)
    rw [hhalf]
    refine ⟨?_, fun _ => by omega⟩
    obtain heven | hodd := Nat.mod_two_eq_zero_or_one (n / d)
    · rw [heven, Nat.add_zero, sub_add_cancel_left, abs_neg, abs_of_pos (by norm_num)]
    · rw [hodd]
      push_cast
      rw [add_sub_add_left_eq_sub, abs_of_pos (by norm_num)]
      norm_num

/-- A fraction that is an integer is returned unchanged. -/
theorem roundNearestEven_of_integer {n d k : Nat} (hd : 0 < d) (h : n = k * d) : roundNearestEven n d = k := by
  have hdiv : n / d = k := by rw [h, Nat.mul_div_cancel _ hd]
  have hmod : n % d = 0 := by rw [h, Nat.mul_mod_left]
  simp [roundNearestEven, hdiv, hmod, hd]

theorem roundNearestEven_mul_right (n d : Nat) {c : Nat} (hc : 0 < c) :
    roundNearestEven (n * c) (d * c) = roundNearestEven n d := by
  simp only [roundNearestEven, Nat.mul_div_mul_right _ _ hc, Nat.mul_mod_mul_right, ← Nat.mul_assoc,
    Nat.mul_lt_mul_right hc]

/-! ### The word of a decoded value -/

section Writing

variable {m : ℤ} {e : Nat}

theorem signFactor_mul_natAbs (m : ℤ) : signFactor (decide (m < 0)) * (m.natAbs : ℚ) = m := by
  rw [Nat.cast_natAbs]
  obtain hneg | hpos := lt_or_ge m 0
  · simp [signFactor, hneg, abs_of_neg hneg]
  · simp [signFactor, hpos.not_gt, abs_of_nonneg hpos]

/-- A magnitude with its leading one at `l`, shifted up to bit 23: nothing is cut off, and the leading one is bit 23. -/
theorem shift_to_fraction {a l : Nat} (hl : l ≤ 23) (hlow : 2 ^ l ≤ a) (hhigh : a < 2 ^ (l + 1)) :
    a * 2 ^ 23 / 2 ^ l = a * 2 ^ (23 - l) ∧ 2 ^ 23 ≤ a * 2 ^ (23 - l) ∧ a * 2 ^ (23 - l) < 2 ^ 24 := by
  have hsplit : 2 ^ 23 = 2 ^ l * 2 ^ (23 - l) := by rw [← pow_add, Nat.add_sub_cancel' hl]
  refine ⟨?_, hsplit ▸ Nat.mul_le_mul_right _ hlow, ?_⟩
  · rw [hsplit, Nat.mul_left_comm, Nat.mul_div_cancel_left _ (Nat.two_pow_pos l)]
  · calc a * 2 ^ (23 - l) < 2 ^ (l + 1) * 2 ^ (23 - l) := Nat.mul_lt_mul_of_pos_right hhigh (Nat.two_pow_pos _)
      _ = 2 ^ 24 := by rw [← pow_add]; congr 1; omega

/-- From `2^-126` on the exponent field is at least 1. -/
theorem den_lt_of_normal {a l e : Nat} (hhigh : a < 2 ^ (l + 1)) (hnormal : 2 ^ e ≤ a * 2 ^ 126) : e < l + 127 := by
  refine (Nat.pow_lt_pow_iff_right Nat.one_lt_two).mp (hnormal.trans_lt ?_)
  calc a * 2 ^ 126 < 2 ^ (l + 1) * 2 ^ 126 := Nat.mul_lt_mul_of_pos_right hhigh (Nat.two_pow_pos 126)
    _ = 2 ^ (l + 127) := by rw [← pow_add]

/-- R113 from `2^-126` on: the magnitude has its leading one at bit 15 or below, so its bits fit the fraction. -/
theorem realToB32_of_normal (hm : m ≠ 0) (hbound : m.natAbs ≤ 2 ^ 15) (hnormal : 2 ^ e ≤ m.natAbs * 2 ^ 126) :
    ∃ x f, realToB32 ⟨m, e⟩ = b32Word (decide (m < 0)) x f ∧ 1 ≤ x ∧ x ≤ 254 ∧ f < 2 ^ 23 ∧
      (2 ^ 23 + f : ℚ) * (2 : ℚ) ^ ((x : ℤ) - 150) = m.natAbs / 2 ^ e := by
  have hword : realToB32 ⟨m, e⟩ = b32Word (decide (m < 0)) (m.natAbs.log2 + 127 - e)
      (m.natAbs * 2 ^ 23 / 2 ^ m.natAbs.log2 - 2 ^ 23) := by
    simp only [realToB32, if_neg hm, if_pos hnormal]
  have hlow : 2 ^ m.natAbs.log2 ≤ m.natAbs := Nat.log2_self_le (Int.natAbs_ne_zero.mpr hm)
  have hhigh : m.natAbs < 2 ^ (m.natAbs.log2 + 1) := Nat.lt_log2_self
  generalize m.natAbs.log2 = l at *
  have hl : l ≤ 15 := (Nat.pow_le_pow_iff_right Nat.one_lt_two).mp (hlow.trans hbound)
  obtain ⟨hshift, hleading, hfits⟩ := shift_to_fraction (by omega) hlow hhigh
  have he := den_lt_of_normal hhigh hnormal
  obtain ⟨x, hx⟩ := Nat.exists_eq_add_of_le he.le
  obtain ⟨f, hf⟩ := Nat.exists_eq_add_of_le hleading
  refine ⟨x, f, ?_, by omega, by omega, by omega, ?_⟩
  · rw [hword, hshift, hf, hx, Nat.add_sub_cancel_left, Nat.add_sub_cancel_left]
  · have hf' : (2 ^ 23 + f : ℚ) = m.natAbs * 2 ^ (23 - l) := by exact_mod_cast hf.symm
    have hexp : (150 : ℤ) = e + (23 - l : ℕ) + x := by omega
    rw [hf', hexp, zpow_sub₀ two_ne_zero, zpow_add₀ two_ne_zero, zpow_add₀ two_ne_zero, zpow_natCast, zpow_natCast,
      zpow_natCast]
    field_simp

/-- R113 below `2^-126`: the fraction counts units of `2^-149`, rounded, and stays below the first normal number. -/
theorem realToB32_of_subnormal (hm : m ≠ 0) (hbound : m.natAbs ≤ 2 ^ 15) (hsmall : m.natAbs * 2 ^ 126 < 2 ^ e) :
    realToB32 ⟨m, e⟩ = b32Word (decide (m < 0)) 0 (roundNearestEven (m.natAbs * 2 ^ 149) (2 ^ e)) ∧
      roundNearestEven (m.natAbs * 2 ^ 149) (2 ^ e) < 2 ^ 23 := by
  refine ⟨by simp only [realToB32, if_neg hm, if_neg hsmall.not_ge], ?_⟩
  generalize m.natAbs = a at *
  obtain hexact | hinexact := Nat.le_or_ge e 149
  · obtain ⟨d, hd⟩ := Nat.exists_eq_add_of_le hexact
    have hinteger : a * 2 ^ 149 = a * 2 ^ d * 2 ^ e := by rw [hd, pow_add]; ring
    rw [roundNearestEven_of_integer (Nat.two_pow_pos e) hinteger]
    refine Nat.lt_of_mul_lt_mul_right (a := 2 ^ e) ?_
    calc a * 2 ^ d * 2 ^ e = a * 2 ^ 126 * 2 ^ 23 := by rw [← hinteger]; ring
      _ < 2 ^ e * 2 ^ 23 := Nat.mul_lt_mul_of_pos_right hsmall (Nat.two_pow_pos 23)
      _ = 2 ^ 23 * 2 ^ e := Nat.mul_comm _ _
  · have hquotient : a * 2 ^ 149 / 2 ^ e ≤ 2 ^ 15 := by
      refine Nat.div_le_of_le_mul ?_
      rw [Nat.mul_comm]
      exact Nat.mul_le_mul (Nat.pow_le_pow_right two_pos hinexact) hbound
    have hround : roundNearestEven (a * 2 ^ 149) (2 ^ e) ≤ a * 2 ^ 149 / 2 ^ e + 1 := by
      simp only [roundNearestEven]
      split_ifs <;> omega
    omega

/-- The normal range begins at `2^-126`. -/
theorem abs_div_lt_iff (m : ℤ) (e : Nat) :
    |(m : ℚ) / 2 ^ e| < (2 : ℚ) ^ (-126 : ℤ) ↔ m.natAbs * 2 ^ 126 < 2 ^ e := by
  rw [abs_div, abs_of_pos (by positivity : (0 : ℚ) < 2 ^ e), ← Int.cast_abs, Int.abs_eq_natAbs, Int.cast_natCast, zpow_neg,
    div_lt_iff₀ (by positivity), ← div_eq_inv_mul, lt_div_iff₀ (by positivity)]
  exact_mod_cast Iff.rfl

theorem abs_signFactor (s : Bool) : |signFactor s| = 1 := by
  cases s <;> simp [signFactor]

/-- R113: the magnitude of the decoded value in units of `2^-149`. -/
theorem abs_div_mul_two_pow (m : ℤ) (e : Nat) :
    |(m : ℚ) / 2 ^ e| * 2 ^ 149 = (m.natAbs * 2 ^ 149 : ℕ) / (2 ^ e : ℕ) := by
  rw [abs_div, abs_of_pos (by positivity : (0 : ℚ) < 2 ^ e), ← Int.cast_abs, Int.abs_eq_natAbs, Int.cast_natCast,
    div_mul_eq_mul_div]
  push_cast
  rfl

/-- What the port shows of a decoded value from `2^-126` on: its sign, and the number itself. -/
theorem port_of_normal (hm : m ≠ 0) (hbound : m.natAbs ≤ 2 ^ 15) (hnormal : 2 ^ e ≤ m.natAbs * 2 ^ 126) :
    (realToB32 ⟨m, e⟩).getLsbD 31 = decide (m < 0) ∧
      ∃ y, b32ToReal (realToB32 ⟨m, e⟩) = .real y ∧ y.toRat = m / 2 ^ e := by
  obtain ⟨x, f, hword, hx, hx', hf, hvalue⟩ := realToB32_of_normal hm hbound hnormal
  have hsign := b32Word_sign (decide (m < 0)) (show x < 256 by omega) hf
  have hexponent := b32Word_exponent (decide (m < 0)) (show x < 256 by omega) hf
  have hfraction := b32Word_fraction (decide (m < 0)) (show x < 256 by omega) hf
  rw [← hword] at hsign hexponent hfraction
  obtain ⟨y, hreal, hy⟩ := b32ToReal_of_normal (hx.trans_eq hexponent.symm) (hexponent.trans_le hx')
  rw [hsign, hexponent, hfraction, mul_assoc, hvalue, ← mul_div_assoc, signFactor_mul_natAbs] at hy
  exact ⟨hsign, y, hreal, hy⟩

/-- What the port shows of a decoded value below `2^-126`: its sign, a zero exponent field, the rounded fraction, and the
number these stand for. -/
theorem port_of_subnormal (hm : m ≠ 0) (hbound : m.natAbs ≤ 2 ^ 15) (hsmall : m.natAbs * 2 ^ 126 < 2 ^ e) :
    (realToB32 ⟨m, e⟩).getLsbD 31 = decide (m < 0) ∧ ((realToB32 ⟨m, e⟩).extractLsb' 23 8).toNat = 0 ∧
      ((realToB32 ⟨m, e⟩).extractLsb' 0 23).toNat = roundNearestEven (m.natAbs * 2 ^ 149) (2 ^ e) ∧
      ∃ y, b32ToReal (realToB32 ⟨m, e⟩) = .real y ∧ y.toRat - m / 2 ^ e =
        signFactor (decide (m < 0)) *
          ((roundNearestEven (m.natAbs * 2 ^ 149) (2 ^ e) : ℚ) - |(m : ℚ) / 2 ^ e| * 2 ^ 149) * (2 : ℚ) ^ (-149 : ℤ) := by
  obtain ⟨hword, hf⟩ := realToB32_of_subnormal hm hbound hsmall
  have hsign := b32Word_sign (decide (m < 0)) (show 0 < 256 by decide) hf
  have hexponent := b32Word_exponent (decide (m < 0)) (show 0 < 256 by decide) hf
  have hfraction := b32Word_fraction (decide (m < 0)) (show 0 < 256 by decide) hf
  rw [← hword] at hsign hexponent hfraction
  obtain ⟨y, hreal, hy⟩ := b32ToReal_of_subnormal hexponent
  refine ⟨hsign, hexponent, hfraction, y, hreal, ?_⟩
  have hq : (m : ℚ) / 2 ^ e = signFactor (decide (m < 0)) * (|(m : ℚ) / 2 ^ e| * 2 ^ 149) * (2 : ℚ) ^ (-149 : ℤ) := by
    rw [abs_div_mul_two_pow, ← signFactor_mul_natAbs m, zpow_neg]
    push_cast
    field_simp
  rw [hy, hsign, hfraction, mul_sub, sub_mul, ← hq]

end Writing

/-- Settles O41: from `2^-126` on the word is exact; below, the fraction is the nearest integer of units, and one at distance
at most one half from an integer is that integer. -/
theorem decodedValuesOnThePort : Obligations.DecodedValuesOnThePort := by
  intro m e habs _
  have hbound : m.natAbs ≤ 2 ^ 15 := by
    rw [Int.abs_eq_natAbs] at habs
    exact_mod_cast habs
  simp only [abs_div_lt_iff]
  obtain rfl | hm := eq_or_ne m 0
  · have hword : realToB32 ⟨0, e⟩ = 0#32 := rfl
    rw [hword]
    refine ⟨fun _ => rfl, fun h => absurd rfl h, ⟨⟨0, 149⟩, by decide, ?_⟩, fun _ => ⟨by decide, ?_⟩⟩
    · simp [Dyad.toRat]
    · simp
  obtain hnormal | hsmall := le_or_gt (2 ^ e) (m.natAbs * 2 ^ 126)
  · obtain ⟨hsign, y, hreal, hy⟩ := port_of_normal hm hbound hnormal
    refine ⟨fun h => absurd h hm, fun _ => hsign, ⟨y, hreal, ?_, fun _ => hy⟩, fun h => absurd h hnormal.not_gt⟩
    rw [hy, sub_self, abs_zero]
    positivity
  · obtain ⟨hsign, hexponent, hfraction, y, hreal, hdiff⟩ := port_of_subnormal hm hbound hsmall
    have hnearest := roundNearestEven_nearest (m.natAbs * 2 ^ 149) (Nat.two_pow_pos e)
    rw [← abs_div_mul_two_pow] at hnearest
    obtain ⟨hhalf, heven⟩ := hnearest
    refine ⟨fun h => absurd h hm, fun _ => hsign, ⟨y, hreal, ?_, fun ⟨z, hz⟩ => ?_⟩, fun _ => ?_⟩
    · have hunit : (2 : ℚ) ^ (-150 : ℤ) = 1 / 2 * (2 : ℚ) ^ (-149 : ℤ) := by norm_num [zpow_neg]
      rw [hdiff, abs_mul, abs_mul, abs_signFactor, one_mul, hunit, abs_of_pos (by positivity : (0 : ℚ) < 2 ^ (-149 : ℤ))]
      exact mul_le_mul_of_nonneg_right hhalf (by positivity)
    · have hmagnitude : |(m : ℚ) / 2 ^ e| * 2 ^ 149 = (|z| : ℤ) := by
        rw [Int.cast_abs, ← hz, abs_mul, abs_of_pos (by positivity : (0 : ℚ) < 2 ^ 149)]
      have hinteger : (roundNearestEven (m.natAbs * 2 ^ 149) (2 ^ e) : ℤ) - |z| = 0 := by
        rw [← Int.abs_lt_one_iff, ← Int.cast_lt (R := ℚ)]
        push_cast at hmagnitude ⊢
        rw [← hmagnitude]
        linarith
      have hexact : (roundNearestEven (m.natAbs * 2 ^ 149) (2 ^ e) : ℚ) = (|z| : ℤ) := by
        exact_mod_cast sub_eq_zero.mp hinteger
      rw [hmagnitude, hexact, sub_self, mul_zero, zero_mul] at hdiff
      exact sub_eq_zero.mp hdiff
    · rw [hfraction]
      exact ⟨BitVec.eq_of_toNat_eq hexponent, hhalf, heven⟩

end Sys2Proof.Machine

/-! O49 and O50: the converters (R114 to R117). One layer says what the operand check and the packed bytes of a real operand
are, for the three kinds of operand; the setters of a real read it too. -/

namespace Sys2Proof.Machine

/-! ### The bytes of a real operand -/

section Operand

variable {p : Params} {w : Word} {x : Dyad}

/-- R112, R114: an infinity or a NaN is ERR_NAN, before any range check. -/
theorem encodeOperand_of_special {enc : Dyad → Option FloatCode} (hx : (w.extractLsb' 23 8).toNat = 255) :
    encodeOperand enc w = .error .errNan := by
  have hnumber := b32ToReal_of_special hx
  by_cases hf : (w.extractLsb' 0 23).toNat = 0
  · rw [if_pos hf] at hnumber
    simp [encodeOperand, hnumber]
  · rw [if_neg hf] at hnumber
    simp [encodeOperand, hnumber]

theorem encodeOperand_of_none {enc : Dyad → Option FloatCode} (hreal : b32ToReal w = .real x) (hout : enc x = none) :
    encodeOperand enc w = .error .errRange := by
  simp [encodeOperand, hreal, hout]

theorem encodeOperand_of_some {enc : Dyad → Option FloatCode} {c : FloatCode} (hreal : b32ToReal w = .real x)
    (hin : enc x = some c) : encodeOperand enc w = .ok c := by
  simp [encodeOperand, hreal, hin]

theorem float2Bytes_of_special (hx : (w.extractLsb' 23 8).toNat = 255) : float2Bytes p w = .error .errNan := by
  rw [float2Bytes, encodeOperand_of_special hx]
  rfl

theorem float3Bytes_of_special (hx : (w.extractLsb' 23 8).toNat = 255) : float3Bytes p w = .error .errNan := by
  rw [float3Bytes, encodeOperand_of_special hx]
  rfl

/-- R109, R116: beyond the range of Float2. -/
theorem float2Bytes_of_outside (hreal : b32ToReal w = .real x) (hout : (4095 / 2 : ℚ) ≤ |x.toRat|) :
    float2Bytes p w = .error .errRange := by
  rw [float2Bytes, encodeOperand_of_none hreal (enc2_eq_none_iff.mpr hout)]
  rfl

/-- R109, R114: beyond the range of Float3. -/
theorem float3Bytes_of_outside (hreal : b32ToReal w = .real x)
    (hout : (65535 / 2 : ℚ) ≤ x.toRat ∨ x.toRat ≤ -(65537 / 2 : ℚ)) : float3Bytes p w = .error .errRange := by
  rw [float3Bytes, encodeOperand_of_none hreal (enc3_eq_none_iff.mpr hout)]
  rfl

theorem float2Bytes_of_some {c : FloatCode} (hreal : b32ToReal w = .real x) (henc : enc2 p.expPolicy x = some c) :
    float2Bytes p w = .ok (pack2 c) := by
  rw [float2Bytes, encodeOperand_of_some hreal henc]
  rfl

theorem float3Bytes_of_some {c : FloatCode} (hreal : b32ToReal w = .real x) (henc : enc3 p.expPolicy x = some c) :
    float3Bytes p w = .ok (pack3 p.f3Order c) := by
  rw [float3Bytes, encodeOperand_of_some hreal henc]
  rfl

theorem exists_enc2 (q : ExpPolicy) (hin : |x.toRat| < (4095 / 2 : ℚ)) : ∃ c, enc2 q x = some c :=
  Option.ne_none_iff_exists'.mp (mt enc2_eq_none_iff.mp hin.not_ge)

theorem exists_enc3 (q : ExpPolicy) (hlo : -(65537 / 2 : ℚ) < x.toRat) (hhi : x.toRat < (65535 / 2 : ℚ)) :
    ∃ c, enc3 q x = some c :=
  Option.ne_none_iff_exists'.mp (mt enc3_eq_none_iff.mp (not_or.mpr ⟨hhi.not_ge, hlo.not_ge⟩))

end Operand

/-! ### A code as a word -/

/-- R31: a step of the fold puts the next byte below the ones before it. -/
theorem shiftLeft_or_byte (acc : Word) (b : Byte) :
    (acc <<< 8) ||| b.setWidth 32 = (acc.setWidth 24 ++ b : BitVec (24 + 8)) := by
  refine BitVec.eq_of_getLsbD_eq fun k hk => ?_
  simp only [BitVec.getLsbD_append, BitVec.getLsbD_or, BitVec.getLsbD_shiftLeft, BitVec.getLsbD_setWidth, hk, decide_true,
    Bool.true_and]
  by_cases hlow : k < 8
  · simp [hlow]
  · simp [hlow, show k - 8 < 24 by omega, BitVec.getLsbD_of_ge b k (Nat.le_of_not_lt hlow)]

theorem toNat_shiftLeft_or_byte (acc : Word) (b : Byte) :
    ((acc <<< 8) ||| b.setWidth 32).toNat = 2 ^ 8 * (acc.toNat % 2 ^ 24) + b.toNat := by
  rw [shiftLeft_or_byte, toNat_append_eq_add, BitVec.toNat_setWidth]

theorem bytesWord_pair (b0 b1 : Byte) : bytesWord [b0, b1] = (0#16 ++ b0 ++ b1 : BitVec 32) := by
  apply BitVec.eq_of_toNat_eq
  simp only [bytesWord, List.foldl_cons, List.foldl_nil, toNat_shiftLeft_or_byte, toNat_append_eq_add, BitVec.toNat_ofNat]
  omega

theorem bytesWord_triple (b0 b1 b2 : Byte) : bytesWord [b0, b1, b2] = (0#8 ++ b0 ++ b1 ++ b2 : BitVec 32) := by
  apply BitVec.eq_of_toNat_eq
  simp only [bytesWord, List.foldl_cons, List.foldl_nil, toNat_shiftLeft_or_byte, toNat_append_eq_add, BitVec.toNat_ofNat]
  omega

/-! ### The converters -/

section Converters

variable {s : State} {w : Word} {x : Dyad}

theorem State.answerBytes_of_error {c : Status} {operand : Except Status (List Byte)} (h : operand = .error c) :
    s.answerBytes operand = .next (s.respond ⟨c, 0#32⟩) :=
  State.answerBytes_eq_next.mpr (.inl ⟨c, h, rfl⟩)

theorem State.answerBytes_of_ok {bs : List Byte} {operand : Except Status (List Byte)} (h : operand = .ok bs) :
    s.answerBytes operand = .next (s.respond ⟨.ok, bytesWord bs⟩) :=
  State.answerBytes_eq_next.mpr (.inr ⟨bs, h, rfl⟩)

/-- R114: `F3ENC` inside the range of Float3. -/
theorem exec_f3enc_of_inside (hreal : b32ToReal w = .real x) (hlo : -(65537 / 2 : ℚ) < x.toRat)
    (hhi : x.toRat < (65535 / 2 : ℚ)) :
    ∃ c b0 b1 b2, enc3 .smallestExact x = some c ∧ pack3 .mantHiMantLoExp c = [b0, b1, b2] ∧
      exec (.f3enc w) s = .next (s.respond ⟨.ok, (0#8 ++ b0 ++ b1 ++ b2 : BitVec 32)⟩) := by
  obtain ⟨c, henc⟩ := exists_enc3 .smallestExact hlo hhi
  obtain ⟨b0, b1, b2, hpack, -⟩ := unpack3_pack3 .mantHiMantLoExp (isFloat3_of_enc3 henc)
  have hbytes : float3Bytes Config.params w = .ok (pack3 .mantHiMantLoExp c) := float3Bytes_of_some hreal henc
  rw [hpack] at hbytes
  refine ⟨c, b0, b1, b2, henc, hpack, ?_⟩
  rw [← bytesWord_triple]
  exact State.answerBytes_of_ok hbytes

/-- R116: `F2ENC` inside the range of Float2. -/
theorem exec_f2enc_of_inside (hreal : b32ToReal w = .real x) (hin : |x.toRat| < (4095 / 2 : ℚ)) :
    ∃ c b0 b1, enc2 .smallestExact x = some c ∧ pack2 c = [b0, b1] ∧
      exec (.f2enc w) s = .next (s.respond ⟨.ok, (0#16 ++ b0 ++ b1 : BitVec 32)⟩) := by
  obtain ⟨c, henc⟩ := exists_enc2 .smallestExact hin
  have hbytes : float2Bytes Config.params w = .ok (pack2 c) := float2Bytes_of_some hreal henc
  refine ⟨c, _, _, henc, rfl, ?_⟩
  rw [← bytesWord_pair]
  exact State.answerBytes_of_ok hbytes

end Converters

/-- Settles O49: the operand's fault, or the packed code of the encoder as a word. -/
theorem floatEncodeCommands : Obligations.FloatEncodeCommands := by
  refine ⟨decodesTo_of_row rfl, decodesTo_of_row rfl, fun s w => ⟨fun hx => ?_, fun hx => ?_⟩⟩
  · exact ⟨State.answerBytes_of_error (float3Bytes_of_special hx), State.answerBytes_of_error (float2Bytes_of_special hx)⟩
  · obtain ⟨x, hreal⟩ := b32ToReal_of_number hx
    exact ⟨x, hreal, fun hout => State.answerBytes_of_error (float3Bytes_of_outside hreal hout),
      exec_f3enc_of_inside hreal, fun hout => State.answerBytes_of_error (float2Bytes_of_outside hreal hout),
      exec_f2enc_of_inside hreal⟩

/-- R113: a decoded value whose exponent is at most 149 is shown exactly. -/
theorem realToB32_exact {m : ℤ} {e : Nat} (hm : |m| ≤ 32768) (he : e ≤ 149) :
    ∃ y, b32ToReal (realToB32 ⟨m, e⟩) = .real y ∧ y.toRat = m / 2 ^ e := by
  obtain ⟨-, -, ⟨y, hreal, -, hexact⟩, -⟩ := decodedValuesOnThePort m e hm (by omega)
  refine ⟨y, hreal, hexact ⟨m * 2 ^ (149 - e), ?_⟩⟩
  rw [div_mul_eq_mul_div, div_eq_iff (by positivity)]
  push_cast
  rw [mul_assoc, ← pow_add, Nat.sub_add_cancel he]

/-- R117: every Float2 code is shown exactly. -/
theorem realToB32_exact_of_isFloat2 {c : FloatCode} (h : c.IsFloat2) :
    ∃ y, b32ToReal (realToB32 (decodeFloat c)) = .real y ∧ y.toRat = (decodeFloat c).toRat := by
  obtain ⟨hlo, hhi, he, -⟩ := h
  exact realToB32_exact (abs_le.mpr ⟨by omega, by omega⟩) (by omega)

/-- R100: the code that `F3DEC` reads from the low 24 bits. -/
theorem unpack3_slices (w : Word) :
    unpack3 .mantHiMantLoExp (w.extractLsb' 16 8) (w.extractLsb' 8 8) (w.extractLsb' 0 8) =
      ⟨(w.extractLsb' 8 16).toInt, w.toNat % 256⟩ := by
  refine congrArg₂ FloatCode.mk (congrArg BitVec.toInt ?_) ?_
  · exact BitVec.extractLsb'_append_extractLsb'_eq_extractLsb' rfl
  · rw [BitVec.extractLsb'_toNat, Nat.shiftRight_zero]

/-- A slice of a slice, where it lies inside. -/
theorem extractLsb'_extractLsb'_of_fits {n i j l m : Nat} (x : BitVec n) (h : i + l ≤ m) :
    (x.extractLsb' j m).extractLsb' i l = x.extractLsb' (j + i) l := by
  refine BitVec.eq_of_getLsbD_eq fun k hk => ?_
  simp only [BitVec.getLsbD_extractLsb', hk, decide_true, Bool.true_and, show i + k < m by omega, Nat.add_assoc]

/-- R101: the code that `F2DEC` reads from the low 16 bits. -/
theorem unpack2_slices (w : Word) :
    unpack2 (w.extractLsb' 8 8) (w.extractLsb' 0 8) = ⟨(w.extractLsb' 0 12).toInt, 2 * (w.toNat / 4096 % 16)⟩ := by
  refine congrArg₂ FloatCode.mk (congrArg BitVec.toInt ?_) (congrArg (2 * ·) ?_)
  · rw [extractLsb'_extractLsb'_of_fits w (by decide)]
    exact BitVec.extractLsb'_append_extractLsb'_eq_extractLsb' rfl
  · rw [extractLsb'_extractLsb'_of_fits w (by decide), BitVec.extractLsb'_toNat, Nat.shiftRight_eq_div_pow]

/-- Settles O50: the codes are slices of the operand, and Float2 codes are exact on the port. -/
theorem floatDecodeCommands : Obligations.FloatDecodeCommands := by
  refine ⟨decodesTo_of_row rfl, decodesTo_of_row rfl, fun s w => ?_⟩
  have hf2 (v : Word) : exec (.f2dec v) s =
      .next (s.respond ⟨.ok, realToB32 ⟨(v.extractLsb' 0 12).toInt, 2 * (v.toNat / 4096 % 16)⟩⟩) := by
    calc exec (.f2dec v) s = s.answer (float2Word (v.extractLsb' 8 8) (v.extractLsb' 0 8)) := rfl
      _ = _ := by rw [float2Word, unpack2_slices, State.answer_def, decodeFloat]
  refine ⟨?_, hf2 w, ?_, ?_, ?_⟩
  · calc exec (.f3dec w) s =
        s.answer (float3Word Config.params (w.extractLsb' 16 8) (w.extractLsb' 8 8) (w.extractLsb' 0 8)) := rfl
      _ = _ := by rw [float3Word, Config.params, unpack3_slices, State.answer_def, decodeFloat]
  · have hcode := isFloat2_unpack2 (w.extractLsb' 8 8) (w.extractLsb' 0 8)
    rw [unpack2_slices] at hcode
    have hpow : (2 : ℚ) ^ (2 * (w.toNat / 4096 % 16)) = 4 ^ (w.toNat / 4096 % 16) := by rw [pow_mul]; norm_num
    simpa only [Dyad.toRat, decodeFloat, hpow] using realToB32_exact_of_isFloat2 hcode
  · have hword : realToB32 ⟨((0x0800#32).extractLsb' 0 12).toInt, 2 * ((0x0800#32).toNat / 4096 % 16)⟩ = 0xC5000000#32 := by
      decide
    rw [hf2, hword]
  · have hreal : b32ToReal 0xC5000000#32 = .real ⟨-8388608, 12⟩ := by decide
    have hout : float2Bytes Config.params 0xC5000000#32 = .error .errRange :=
      float2Bytes_of_outside hreal (by norm_num [Dyad.toRat])
    exact State.answerBytes_of_error hout

end Sys2Proof.Machine

/-! O51, O53, O54, O56 and O60: the telemetry commands whose bytes are a real or an alarm (R122 to R125, R130 to R132), and
that a stored real reads back alike under both values of EXP_POLICY (R103). The setters read the layer about a real operand's
bytes; the last statement rests on `realToB32` reading no more of a decoded code than its number. -/

namespace Sys2Proof.Machine

/-! ### Getters -/

section Getters

variable {s : State} {e : LayEntry} {idx : Byte}

/-- R122, R124: an enabled Float2 channel reads its two bytes. -/
theorem State.readFloat2_of_enabled (hen : e.en = true) (hfit : e.off + 2 ≤ 17) :
    s.readFloat2 e =
      .next (s.respond ⟨.ok, realToB32 (decodeFloat (unpack2 (s.byte .tlm e.off) (s.byte .tlm (e.off + 1))))⟩) :=
  State.readChannel_of_enabled hen hfit

/-- R130: an enabled gps axis reads its three bytes. -/
theorem exec_tgetGps (hlay : s.LayFollowsMask) (hidx : idx.toNat < 3) (hen : s.lay.gps.en = true) :
    exec (.tgetGps idx) s = .next (s.respond ⟨.ok, realToB32 (decodeFloat (unpack3 .mantHiMantLoExp
      (s.byte .tlm (s.lay.gps.off + 3 * idx.toNat)) (s.byte .tlm (s.lay.gps.off + 3 * idx.toNat + 1))
      (s.byte .tlm (s.lay.gps.off + 3 * idx.toNat + 2))))⟩) :=
  (if_neg hidx.not_ge).trans (State.readChannel_of_enabled hen (State.Inv.axis_fits hlay hidx hen))

/-- R132: alarm `idx` is bit `idx` of the alarm byte, as the alarms start at bit 0 (R86). -/
theorem exec_tgetAlm (hlay : s.LayFollowsMask) (hidx : idx.toNat < 3) (halm : idx.toNat < s.lay.alm.width) :
    s.lay.alm.bit = 0 ∧ exec (.tgetAlm idx) s =
      .next (s.respond ⟨.ok, BitVec.ofNat 32 ((s.byte .tlm s.lay.alm.off).toNat / 2 ^ idx.toNat % 2)⟩) := by
  have hbit : s.lay.alm.bit = 0 := by
    rw [hlay]
    exact (layout_alm _).1
  have hvalue (b : Byte) (k : Nat) : boolWord (b.getLsbD k) = BitVec.ofNat 32 (b.toNat / 2 ^ k % 2) := by
    rw [boolWord_eq, ← BitVec.testBit_toNat, Nat.toNat_testBit]
  refine ⟨hbit, (if_neg hidx.not_ge).trans ?_⟩
  rw [State.readChannel_of_enabled (decide_eq_true halm) (State.Inv.alarm_fits hlay halm), hbit, Nat.zero_add, hvalue]

/-- R88: current stands behind battery. -/
theorem layout_cur_off (mask : Byte) (hen : (layout mask).cur.en = true) :
    (layout mask).cur.off = if (layout mask).bat.en then 2 else 0 := by
  have hbat : (layout mask).bat.en = maskEnables mask .bat := layout_entry_en mask .bat
  have hcur : (layout mask).cur = placedEntry mask .cur (recordStart mask 1) := layout_entry_at mask .cur
  have hstart : recordStart mask 1 = takenBytes mask .bat := by simp [recordStart, recordOrder]
  rw [hcur, placedEntry_en] at hen
  rw [hcur, placedEntry, if_pos hen, hstart, hbat]
  rfl

/-- R88: battery is the first field. -/
theorem layout_bat_off (mask : Byte) : (layout mask).bat.off = 0 := by
  have hbat : (layout mask).bat = placedEntry mask .bat (recordStart mask 0) := layout_entry_at mask .bat
  rw [hbat, placedEntry]
  split <;> rfl

end Getters

/-- Settles O51: the two channels of Float2 codes, each of which is shown exactly. -/
theorem batteryAndCurrentGetters : Obligations.BatteryAndCurrentGetters := by
  refine ⟨decodesTo_of_row rfl, decodesTo_of_row rfl, fun s ⟨_, _, hlay⟩ => ?_⟩
  refine ⟨State.readChannel_of_disabled, fun hen => ⟨?_, ?_⟩, State.readChannel_of_disabled, fun hen => ⟨?_, ?_⟩,
    fun b0 b1 => realToB32_exact_of_isFloat2 (isFloat2_unpack2 b0 b1)⟩
  · rw [hlay, layout_bat_off]
  · exact State.readFloat2_of_enabled hen (State.Inv.entry_fits hlay .bat hen)
  · rw [hlay] at hen ⊢
    exact layout_cur_off _ hen
  · exact State.readFloat2_of_enabled hen (State.Inv.entry_fits hlay .cur hen)

/-- Settles O53: the index check, the enable check, then the bytes of the axis or the bit of the alarm. -/
theorem gpsAndAlarmGetters : Obligations.GpsAndAlarmGetters := by
  refine ⟨decodesTo_of_row rfl, decodesTo_of_row rfl, fun s idx ⟨_, _, hlay⟩ =>
    ⟨fun h => ⟨if_pos h, if_pos h⟩, fun hidx => ?_⟩⟩
  refine ⟨fun hen => ?_, exec_tgetGps hlay hidx, fun halm => ?_, exec_tgetAlm hlay hidx⟩
  · exact (if_neg hidx.not_ge).trans (State.readChannel_of_disabled hen)
  · exact (if_neg hidx.not_ge).trans (State.readChannel_of_disabled (decide_eq_false halm.not_gt))

/-! ### Setters of a real -/

section Setters

variable {s : State} {en : Bool} {a : Nat} {operand : Except Status (List Byte)}

/-- R120: an enabled channel's setter ends with its operand's fault. -/
theorem State.writeChannel_of_error {c : Status} (hen : en = true) (hoperand : operand = .error c) :
    s.writeChannel en a operand = .next (s.respond ⟨c, 0#32⟩) :=
  State.writeChannel_eq_next.mpr (.inr (.inl ⟨c, hen, hoperand, rfl⟩))

/-- R120: an enabled channel's setter stores its operand's bytes. -/
theorem State.writeChannel_of_ok {bs : List Byte} (hen : en = true) (hoperand : operand = .ok bs)
    (hfit : a + bs.length ≤ 17) : ∃ t, s.writeChannel en a operand = .next t ∧ s.WroteTlm t a bs :=
  hoperand ▸ State.storeChannel_writes hen hfit

/-- R123, R125: the setter of an enabled Float2 channel, for the numbers outside and inside the range. -/
theorem State.writeFloat2_of_number {e : LayEntry} {w : Word} {x : Dyad} (hen : e.en = true) (hfit : e.off + 2 ≤ 17)
    (hreal : b32ToReal w = .real x) :
    ((4095 / 2 : ℚ) ≤ |x.toRat| → s.writeFloat2 Config.params e w = .next (s.respond ⟨.errRange, 0#32⟩)) ∧
      (|x.toRat| < (4095 / 2 : ℚ) → ∃ c t, enc2 .smallestExact x = some c ∧
        s.writeFloat2 Config.params e w = .next t ∧ s.WroteTlm t e.off (pack2 c)) := by
  refine ⟨fun hout => State.writeChannel_of_error hen (float2Bytes_of_outside hreal hout), fun hin => ?_⟩
  obtain ⟨c, henc⟩ := exists_enc2 .smallestExact hin
  have hbytes := float2Bytes_of_some (p := Config.params) hreal henc
  obtain ⟨t, hwrite, hwrote⟩ := State.writeChannel_of_ok (s := s) hen hbytes hfit
  exact ⟨c, t, henc, hwrite, hwrote⟩

/-- R131: the setter of an enabled gps axis, for the numbers outside and inside the range. -/
theorem State.writeFloat3_of_number {e : LayEntry} {axis : Nat} {w : Word} {x : Dyad} (hen : e.en = true)
    (hfit : axisOffset e axis + 3 ≤ 17) (hreal : b32ToReal w = .real x) :
    (((65535 / 2 : ℚ) ≤ x.toRat ∨ x.toRat ≤ -(65537 / 2 : ℚ)) →
        s.writeFloat3 Config.params e axis w = .next (s.respond ⟨.errRange, 0#32⟩)) ∧
      (-(65537 / 2 : ℚ) < x.toRat → x.toRat < (65535 / 2 : ℚ) → ∃ c t, enc3 .smallestExact x = some c ∧
        s.writeFloat3 Config.params e axis w = .next t ∧
        s.WroteTlm t (axisOffset e axis) (pack3 .mantHiMantLoExp c)) := by
  refine ⟨fun hout => State.writeChannel_of_error hen (float3Bytes_of_outside hreal hout), fun hlo hhi => ?_⟩
  obtain ⟨c, henc⟩ := exists_enc3 .smallestExact hlo hhi
  have hbytes := float3Bytes_of_some (p := Config.params) hreal henc
  obtain ⟨t, hwrite, hwrote⟩ := State.writeChannel_of_ok (s := s) hen hbytes hfit
  exact ⟨c, t, henc, hwrite, hwrote⟩

end Setters

/-- Settles O54: both commands are the one Float2 setter, at battery's and at current's entry. -/
theorem batteryAndCurrentSetters : Obligations.BatteryAndCurrentSetters := by
  refine ⟨decodesTo_of_row rfl, decodesTo_of_row rfl, fun s w ⟨_, _, hlay⟩ ie hie => ?_⟩
  obtain ⟨hexec, hfit⟩ : exec ie.1 s = s.writeFloat2 Config.params ie.2 w ∧ (ie.2.en = true → ie.2.off + 2 ≤ 17) := by
    obtain rfl | rfl : ie = (.tsetBat w, s.lay.bat) ∨ ie = (.tsetCur w, s.lay.cur) := by simpa using hie
    · exact ⟨rfl, State.Inv.entry_fits hlay .bat⟩
    · exact ⟨rfl, State.Inv.entry_fits hlay .cur⟩
  rw [hexec]
  refine ⟨State.writeChannel_of_disabled, fun hen hx => State.writeChannel_of_error hen (float2Bytes_of_special hx),
    fun hen hx => ?_⟩
  obtain ⟨x, hreal⟩ := b32ToReal_of_number hx
  exact ⟨x, hreal, State.writeFloat2_of_number hen (hfit hen) hreal⟩

/-- Settles O56: the index check, the enable check, the operand's fault, then the bytes of the axis. -/
theorem gpsSetter : Obligations.GpsSetter := by
  refine ⟨decodesTo_of_row rfl, fun s idx w ⟨_, _, hlay⟩ => ⟨fun h => if_pos h, fun hidx hen => ?_, fun hidx hen hx => ?_,
    fun hidx hen hx => ?_⟩⟩
  · exact (if_neg hidx.not_ge).trans (State.writeChannel_of_disabled hen)
  · exact (if_neg hidx.not_ge).trans (State.writeChannel_of_error hen (float3Bytes_of_special hx))
  · have hexec : exec (.tsetGps idx w) s = s.writeFloat3 Config.params s.lay.gps idx.toNat w := if_neg hidx.not_ge
    obtain ⟨x, hreal⟩ := b32ToReal_of_number hx
    rw [hexec]
    exact ⟨x, hreal, State.writeFloat3_of_number hen (State.Inv.axis_fits hlay hidx hen) hreal⟩

/-! ### One number, one word -/

section PortCongruence

theorem log2_mul_two_pow {a : Nat} (ha : a ≠ 0) (k : Nat) : (a * 2 ^ k).log2 = a.log2 + k := by
  rw [Nat.log2_eq_iff (Nat.mul_ne_zero ha (Nat.two_pow_pos k).ne'), pow_add, Nat.add_right_comm, pow_add _ _ k]
  exact ⟨Nat.mul_le_mul_right _ (Nat.log2_self_le ha), Nat.mul_lt_mul_of_pos_right Nat.lt_log2_self (Nat.two_pow_pos k)⟩

/-- R113: the same fraction with both sides doubled `k` times packs the same fields. -/
theorem realToB32_mul_two_pow (m : ℤ) (e k : Nat) : realToB32 ⟨m * 2 ^ k, e + k⟩ = realToB32 ⟨m, e⟩ := by
  obtain rfl | hm := eq_or_ne m 0
  · simp [realToB32]
  have hpos : 0 < 2 ^ k := Nat.two_pow_pos k
  have hm' : m * 2 ^ k ≠ 0 := mul_ne_zero hm (by positivity)
  have hsign : m * 2 ^ k < 0 ↔ m < 0 := by
    rw [← not_le, ← not_le, mul_nonneg_iff_of_pos_right (by positivity)]
  have habs : (m * 2 ^ k).natAbs = m.natAbs * 2 ^ k := by rw [Int.natAbs_mul, Int.natAbs_pow]; rfl
  have hlog := log2_mul_two_pow (Int.natAbs_ne_zero.mpr hm) k
  have hexponent : m.natAbs.log2 + k + 127 - (e + k) = m.natAbs.log2 + 127 - e := by omega
  simp only [realToB32, if_neg hm, if_neg hm', hsign, habs, hlog, hexponent, pow_add,
    Nat.mul_right_comm m.natAbs (2 ^ k), Nat.mul_le_mul_right_iff hpos,
    Nat.mul_div_mul_right _ _ hpos, roundNearestEven_mul_right _ _ hpos]

/-- The port shows the number a dyad stands for, whichever dyad that is. -/
theorem realToB32_congr {x y : Dyad} (h : x.toRat = y.toRat) : realToB32 x = realToB32 y := by
  have hordered {x y : Dyad} (h : x.toRat = y.toRat) (hle : x.den ≤ y.den) : realToB32 x = realToB32 y := by
    obtain ⟨m, e⟩ := x
    obtain ⟨n, d⟩ := y
    obtain ⟨k, rfl⟩ := Nat.exists_eq_add_of_le hle
    have hnum : n = m * 2 ^ k := by
      rw [Dyad.toRat, Dyad.toRat, div_eq_div_iff (by positivity) (by positivity), pow_add, mul_comm (2 ^ e : ℚ), ← mul_assoc]
        at h
      exact_mod_cast (mul_right_cancel₀ (by positivity) h).symm
    rw [hnum, realToB32_mul_two_pow]
  obtain hle | hle := Nat.le_total x.den y.den
  · exact hordered h hle
  · exact (hordered h.symm hle).symm

end PortCongruence

/-! ### Both policies -/

section Policies

/-- R103: a real operand is a fault under every policy alike, or its bytes read back as one word. -/
theorem float2Bytes_readBack (w : Word) :
    (∃ c, ∀ p, float2Bytes p w = .error c) ∨
      ∃ d, ∀ p, ∃ b0 b1, float2Bytes p w = .ok [b0, b1] ∧ float2Word b0 b1 = d := by
  by_cases hx : (w.extractLsb' 23 8).toNat = 255
  · exact .inl ⟨_, fun _ => float2Bytes_of_special hx⟩
  obtain ⟨x, hreal⟩ := b32ToReal_of_number hx
  obtain hout | hin := le_or_gt (4095 / 2 : ℚ) |x.toRat|
  · exact .inl ⟨_, fun _ => float2Bytes_of_outside hreal hout⟩
  obtain ⟨c, henc⟩ := exists_enc2 .smallestExact hin
  refine .inr ⟨realToB32 (decodeFloat c), fun p => ?_⟩
  obtain ⟨c', henc', hvalue⟩ := search_of_search float2Exps_ascending (by decide) (by decide) henc p.expPolicy
  obtain ⟨b0, b1, hpack, hunpack⟩ := unpack2_pack2 (isFloat2_of_enc2 henc').1
  refine ⟨b0, b1, hpack ▸ float2Bytes_of_some hreal henc', ?_⟩
  rw [float2Word, hunpack, realToB32_congr hvalue]

/-- R103 for Float3, whichever order the bytes are in. -/
theorem float3Bytes_readBack (w : Word) :
    (∃ c, ∀ p, float3Bytes p w = .error c) ∨
      ∃ d, ∀ p, ∃ b0 b1 b2, float3Bytes p w = .ok [b0, b1, b2] ∧ float3Word p b0 b1 b2 = d := by
  by_cases hx : (w.extractLsb' 23 8).toNat = 255
  · exact .inl ⟨_, fun _ => float3Bytes_of_special hx⟩
  obtain ⟨x, hreal⟩ := b32ToReal_of_number hx
  by_cases hout : (65535 / 2 : ℚ) ≤ x.toRat ∨ x.toRat ≤ -(65537 / 2 : ℚ)
  · exact .inl ⟨_, fun _ => float3Bytes_of_outside hreal hout⟩
  obtain ⟨hhi, hlo⟩ := not_or.mp hout
  obtain ⟨c, henc⟩ := exists_enc3 .smallestExact (not_le.mp hlo) (not_le.mp hhi)
  refine .inr ⟨realToB32 (decodeFloat c), fun p => ?_⟩
  obtain ⟨c', henc', hvalue⟩ := search_of_search float3Exps_ascending (by decide) (by decide) henc p.expPolicy
  obtain ⟨b0, b1, b2, hpack, hunpack⟩ := unpack3_pack3 p.f3Order (isFloat3_of_enc3 henc')
  refine ⟨b0, b1, b2, hpack ▸ float3Bytes_of_some hreal henc', ?_⟩
  rw [float3Word, hunpack, realToB32_congr hvalue]

variable {s t : State} {en : Bool} {a n : Nat}

/-- A channel whose bytes are in the buffer answers something, and only answers. -/
theorem State.readChannel_responds (v : Word) (hfit : en = true → a + n ≤ 17) :
    ∃ r, s.readChannel en a n v = .next (s.respond r) := by
  cases en with
  | false => exact ⟨_, State.readChannel_of_disabled rfl⟩
  | true => exact ⟨_, State.readChannel_of_enabled rfl (hfit rfl)⟩

/-- Two operands of one channel that are one fault, or bytes that a reader of the channel shows as one word, are read back
alike. -/
theorem State.writeChannel_readBack {operand operand' : Except Status (List Byte)} (value value' : State → Word)
    (hfit : en = true → a + n ≤ 17)
    (hsame : ∀ r, value (s.respond r) = value' (s.respond r))
    (hoperands : (∃ c, operand = .error c ∧ operand' = .error c) ∨
      ∃ bs bs' d, operand = .ok bs ∧ operand' = .ok bs' ∧ bs'.length = n ∧
        (∀ t, s.WroteTlm t a bs → value t = d) ∧ ∀ t, s.WroteTlm t a bs' → value' t = d)
    (h : s.writeChannel en a operand = .next t) :
    ∃ t' r, s.writeChannel en a operand' = .next t' ∧ t.readChannel en a n (value t) = .next (t.respond r) ∧
      t'.readChannel en a n (value' t') = .next (t'.respond r) := by
  obtain ⟨hen, rfl⟩ | ⟨c, hen, hc, rfl⟩ | ⟨bs, hen, hbs, -, rfl⟩ := State.writeChannel_eq_next.mp h
  · exact ⟨_, _, State.writeChannel_of_disabled hen, State.readChannel_of_disabled hen, State.readChannel_of_disabled hen⟩
  · obtain ⟨c', hc', hfault⟩ | ⟨_, _, _, hok, -⟩ := hoperands
    · obtain rfl : c = c' := Except.error.inj (hc.symm.trans hc')
      obtain ⟨r, hread⟩ := State.readChannel_responds (s := s.respond ⟨c, 0#32⟩) (value (s.respond ⟨c, 0#32⟩)) hfit
      exact ⟨_, r, State.writeChannel_of_error hen hfault, hread, hsame _ ▸ hread⟩
    · simp [hok] at hc
  · obtain ⟨c', hc', -⟩ | ⟨bs', bs'', d, hok, hok', hlength, hvalue, hvalue'⟩ := hoperands
    · simp [hc'] at hbs
    · obtain rfl : bs = bs' := Except.ok.inj (hbs.symm.trans hok)
      obtain ⟨t', hwrite', hwrote'⟩ := State.writeChannel_of_ok (s := s) hen hok' (hlength ▸ hfit hen)
      refine ⟨t', ⟨.ok, d⟩, hwrite', ?_, ?_⟩
      · rw [State.readChannel_of_enabled hen (hfit hen), hvalue _ (State.wroteTlm_writeTlm s a bs)]
      · rw [State.readChannel_of_enabled hen (hfit hen), hvalue' _ hwrote']

theorem State.WroteTlm.float2Word_eq {b0 b1 : Byte} {d : Word} (hd : float2Word b0 b1 = d) (h : s.WroteTlm t a [b0, b1]) :
    float2Word (t.byte .tlm a) (t.byte .tlm (a + 1)) = d := by
  obtain ⟨hbytes, -⟩ := h
  have hb0 : t.byte .tlm a = b0 := hbytes 0 (by simp)
  have hb1 : t.byte .tlm (a + 1) = b1 := hbytes 1 (by simp)
  rw [hb0, hb1, hd]

theorem State.WroteTlm.float3Word_eq {p : Params} {b0 b1 b2 : Byte} {d : Word} (hd : float3Word p b0 b1 b2 = d)
    (h : s.WroteTlm t a [b0, b1, b2]) :
    float3Word p (t.byte .tlm a) (t.byte .tlm (a + 1)) (t.byte .tlm (a + 2)) = d := by
  obtain ⟨hbytes, -⟩ := h
  have hb0 : t.byte .tlm a = b0 := hbytes 0 (by simp)
  have hb1 : t.byte .tlm (a + 1) = b1 := hbytes 1 (by simp)
  have hb2 : t.byte .tlm (a + 2) = b2 := hbytes 2 (by simp)
  rw [hb0, hb1, hb2, hd]

/-- R103 at a Float2 channel. -/
theorem State.writeFloat2_readBack {e : LayEntry} {w : Word} (p p' : Params) (hfit : e.en = true → e.off + 2 ≤ 17)
    (h : s.writeFloat2 p e w = .next t) :
    ∃ t' r, s.writeFloat2 p' e w = .next t' ∧ t.readFloat2 e = .next (t.respond r) ∧
      t'.readFloat2 e = .next (t'.respond r) := by
  refine State.writeChannel_readBack (fun u => float2Word (u.byte .tlm e.off) (u.byte .tlm (e.off + 1)))
    (fun u => float2Word (u.byte .tlm e.off) (u.byte .tlm (e.off + 1))) hfit (fun _ => rfl) ?_ h
  obtain ⟨c, hfault⟩ | ⟨d, hstored⟩ := float2Bytes_readBack w
  · exact .inl ⟨c, hfault p, hfault p'⟩
  · obtain ⟨b0, b1, hbytes, hd⟩ := hstored p
    obtain ⟨b0', b1', hbytes', hd'⟩ := hstored p'
    exact .inr ⟨_, _, d, hbytes, hbytes', rfl, fun _ => State.WroteTlm.float2Word_eq hd,
      fun _ => State.WroteTlm.float2Word_eq hd'⟩

/-- R103 at a gps axis; the two parameters agree on the order of the bytes. -/
theorem State.writeFloat3_readBack {e : LayEntry} {axis : Nat} {w : Word} {p p' : Params} (horder : p.f3Order = p'.f3Order)
    (hfit : e.en = true → axisOffset e axis + 3 ≤ 17) (h : s.writeFloat3 p e axis w = .next t) :
    ∃ t' r, s.writeFloat3 p' e axis w = .next t' ∧ t.readFloat3 p e axis = .next (t.respond r) ∧
      t'.readFloat3 p' e axis = .next (t'.respond r) := by
  have hread (u : State) (q : Params) : u.readFloat3 q e axis = u.readChannel e.en (axisOffset e axis) 3
      (float3Word q (u.byte .tlm (axisOffset e axis)) (u.byte .tlm (axisOffset e axis + 1))
        (u.byte .tlm (axisOffset e axis + 2))) := rfl
  simp only [hread]
  refine State.writeChannel_readBack
    (fun u => float3Word p (u.byte .tlm (axisOffset e axis)) (u.byte .tlm (axisOffset e axis + 1))
      (u.byte .tlm (axisOffset e axis + 2)))
    (fun u => float3Word p' (u.byte .tlm (axisOffset e axis)) (u.byte .tlm (axisOffset e axis + 1))
      (u.byte .tlm (axisOffset e axis + 2))) hfit (fun _ => by simp only [float3Word, horder]) ?_ h
  obtain ⟨c, hfault⟩ | ⟨d, hstored⟩ := float3Bytes_readBack w
  · exact .inl ⟨c, hfault p, hfault p'⟩
  · obtain ⟨b0, b1, b2, hbytes, hd⟩ := hstored p
    obtain ⟨b0', b1', b2', hbytes', hd'⟩ := hstored p'
    exact .inr ⟨_, _, d, hbytes, hbytes', rfl, fun _ => State.WroteTlm.float3Word_eq hd,
      fun _ => State.WroteTlm.float3Word_eq hd'⟩

end Policies

/-- Settles O60, channel by channel. -/
theorem storedRealsReadBackAlikeUnderBothPolicies : Obligations.StoredRealsReadBackAlikeUnderBothPolicies := by
  intro o s w ⟨_, _, hlay⟩
  constructor
  · simp only [List.forall_mem_cons, List.not_mem_nil, false_implies, implies_true, and_true]
    exact ⟨fun _ => State.writeFloat2_readBack _ _ (State.Inv.entry_fits hlay .bat),
      fun _ => State.writeFloat2_readBack _ _ (State.Inv.entry_fits hlay .cur)⟩
  · exact fun axis haxis _ => State.writeFloat3_readBack rfl (State.Inv.axis_fits hlay haxis)

end Sys2Proof.Machine
